-- ==== Sys2Proof/Word.lean ====
section
/-! DEFINITION. The fixed-width words of the core: nibble, byte, and the widest forms of the two command operands. -/

namespace Sys2Proof

/-- A 4-bit group of the state (`00_scope.md` glossary, rule R20). -/
abbrev Nibble := BitVec 4

/-- A byte of a message, of a block, of the state or of a digest (rules R21, R40, R43, R114). -/
abbrev Byte := BitVec 8

/-- The `len` operand at its widest: `LW + 1` bits, 5 when `r = 16` (rule R50). -/
abbrev LenWord := BitVec 5

/-- The `data` operand and the output block at their widest: `r` bits, 16 when `r = 16` (rules R50, R56). -/
abbrev Block := BitVec 16

end Sys2Proof
end

