-- ==== Sys2Proof/Config.lean ====
section
/-! DEFINITION. What an implementation fixes (the two elaboration parameters of rules R6 and R10, and the build that
`State.reset` is the reset of) and the free values: output ports whose value the spec leaves unspecified. -/

namespace Sys2Proof

/-- The elaboration parameter `VARIANT` (rule R7). Its numbers are `Variant.params` in Machine/Params.lean. -/
inductive Variant
  | s88 | s128 | s160 | s224 | s256
deriving DecidableEq, Repr

/-- The elaboration parameter `BIT_ORDER` (rule R10): which bit of a message byte comes first in the stream. -/
inductive BitOrder
  | msbFirst | lsbFirst
deriving DecidableEq, Repr

/-- The output ports of the core in one cycle (rules R28, R50, R56), `out_data` at its widest. -/
structure Ports where
  cmdReady : Bool
  outValid : Bool
  outLast  : Bool
  outData  : Block
  stCtl    : BitVec 3
  stBusy   : Bool
  stErr    : BitVec 2
deriving DecidableEq, Repr, Inhabited

/-- The variant of the build whose reset state is `Machine.State.reset`.
DESIGN CHOICE (log 2): the spec gives VARIANT no default; the step models all five. -/
def Config.variant : Variant := .s88

/-- The bit order of the build whose reset state is `Machine.State.reset`: the value rule R10 decides. -/
def Config.order : BitOrder := .msbFirst

/-- The free value of the output ports in a cycle where the spec gives them no value: `out_data` while
`out_valid = 0` (rules R98, R145, U2), and every output in a cycle with `rst = 0` before the first reset edge
(rule R141). It is applied to the state's `cycle` counter and has no body: nothing constrains it (log 6). -/
opaque Config.freePorts : Nat → Ports

end Sys2Proof
end

