-- ==== Sys2Proof/Machine/Params.lean ====
section
/-! DEFINITION. The parameter table of rule R7, the derived quantities of rule R8, and the legality of a parameter set
(rule R9). -/

namespace Sys2Proof

/-- A parameter set `(b, r, c, rounds, output_size)` with its LFSR columns (rules R6, R7). -/
structure ParamSet where
  /-- `output_size`, the digest length in bits -/
  n : Nat
  /-- the capacity in bits -/
  c : Nat
  /-- the rate in bits -/
  r : Nat
  /-- the state width in bits -/
  b : Nat
  /-- the number of permutation rounds -/
  rounds : Nat
  /-- the LFSR width in bits -/
  w : Nat
  /-- the bits of the counter whose exclusive-or is the LFSR feedback bit -/
  taps : List Nat
  /-- the LFSR initial value -/
  lfsrInit : Nat
deriving DecidableEq, Repr

/-- The rows of the table of rule R7. UNVERIFIED against the published design (log 10): the spec supplies every
number but `n` from general knowledge. -/
def Variant.params : Variant → ParamSet
  | .s88  => { n := 88,  c := 80,  r := 8,  b := 88,  rounds := 45,  w := 6, taps := [5, 4],       lfsrInit := 0x05 }
  | .s128 => { n := 128, c := 128, r := 8,  b := 136, rounds := 70,  w := 7, taps := [6, 5],       lfsrInit := 0x7A }
  | .s160 => { n := 160, c := 160, r := 16, b := 176, rounds := 90,  w := 7, taps := [6, 5],       lfsrInit := 0x45 }
  | .s224 => { n := 224, c := 224, r := 16, b := 240, rounds := 120, w := 7, taps := [6, 5],       lfsrInit := 0x01 }
  | .s256 => { n := 256, c := 256, r := 16, b := 272, rounds := 140, w := 8, taps := [7, 3, 2, 1], lfsrInit := 0x9E }

/-- The digest length `n` in bits. -/
def Variant.n (v : Variant) : Nat := v.params.n
/-- The rate `r` in bits. -/
def Variant.r (v : Variant) : Nat := v.params.r
/-- The state width `b` in bits. -/
def Variant.b (v : Variant) : Nat := v.params.b
/-- The number `R` of rounds of one permutation. -/
def Variant.rounds (v : Variant) : Nat := v.params.rounds
/-- The LFSR width `w`, which is also `RW`, the width of the round index (rule R8). -/
def Variant.w (v : Variant) : Nat := v.params.w
/-- The LFSR feedback taps. -/
def Variant.taps (v : Variant) : List Nat := v.params.taps

/-- `NB = n / r`, the number of output blocks squeezed (rule R8). -/
def Variant.nb (v : Variant) : Nat := v.n / v.r
/-- `LW = log2 r` (rule R8). -/
def Variant.lw (v : Variant) : Nat := v.r.log2
/-- `NN = b / 4`, the number of state nibbles (rule R8). -/
def Variant.nn (v : Variant) : Nat := v.b / 4
/-- `NY = b / 8`, the number of state bytes (rule R8). -/
def Variant.ny (v : Variant) : Nat := v.b / 8
/-- `CWW = 2 + (LW + 1) + r`, the width of a command word (rule R52). -/
def Variant.cww (v : Variant) : Nat := 2 + (v.lw + 1) + v.r

/-- `Ctr(0)`, the LFSR initial value of the variant (rule R75). -/
def Variant.ctr0 (v : Variant) : BitVec v.w := BitVec.ofNat v.w v.params.lfsrInit

/-- The legality conditions of rule R9, in its order. -/
def ParamSet.legal (p : ParamSet) : Bool :=
  p.b % 8 == 0 && p.r % 8 == 0 && p.r == 2 ^ p.r.log2 && decide (0 < p.r ∧ p.r < p.b) &&
  p.b % p.r == 0 && p.n % p.r == 0 && decide (1 ≤ p.rounds) && decide (1 ≤ p.w ∧ p.w ≤ 8) && p.lfsrInit != 0

/-- The five values of `VARIANT` (rule R7). -/
def Variant.all : List Variant := [.s88, .s128, .s160, .s224, .s256]

/-- The variant whose row of rule R7 is this parameter set, if there is one. -/
def Variant.ofParams? (p : ParamSet) : Option Variant := Variant.all.find? fun v => v.params == p

end Sys2Proof
end

