-- ==== Sys2Proof/Syntax.lean ====
section
/-! DEFINITION. The commands: one constructor per row of spec/opcode_table.json. -/

namespace Sys2Proof

/-- A command as one transfer on the command channel presents it (rules R53, R60). Every command carries both operand
fields (rule R50), also the ones it ignores (rules R54, R55), so that no bit of a command word is lost.
The operands have their widest width; `Instr.wf` says what fits a variant (log 7). -/
inductive Instr
  /-- `op = 00`, row `INIT` (rule R100); both operands are ignored. -/
  | init (len : LenWord) (data : Block)
  /-- `op = 01`, row `ABSORB` (rule R101); `len` is ignored. -/
  | absorb (len : LenWord) (data : Block)
  /-- `op = 10`, row `FINAL` (rule R102). -/
  | final (len : LenWord) (data : Block)
  /-- `op = 11`, row `RSV`, the reserved code (rule R124); both operands are ignored. -/
  | rsv (len : LenWord) (data : Block)
deriving DecidableEq, Repr

/-- The command code `op` (rule R53). -/
def Instr.op : Instr → BitVec 2
  | .init _ _ => 0b00#2
  | .absorb _ _ => 0b01#2
  | .final _ _ => 0b10#2
  | .rsv _ _ => 0b11#2

/-- The `len` field (rule R54). -/
def Instr.len : Instr → LenWord
  | .init len _ => len
  | .absorb len _ => len
  | .final len _ => len
  | .rsv len _ => len

/-- The `data` field (rule R55). -/
def Instr.data : Instr → Block
  | .init _ data => data
  | .absorb _ data => data
  | .final _ data => data
  | .rsv _ data => data

end Sys2Proof
end

