-- ==== Sys2Proof/WellFormed.lean ====
section
/-! DEFINITION. Which commands a variant's command channel can carry (rules R50, R52). -/

namespace Sys2Proof

/-- The `len` operand fits the `LW + 1` bits of `cmd_len` (rule R50). `len >= r` is well formed: it can be presented,
and is rejected with `LEN` (rule R126). -/
def Instr.lenFits (v : Variant) (i : Instr) : Bool := decide (i.len.toNat < 2 ^ (v.lw + 1))

/-- The `data` operand fits the `r` bits of `cmd_data` (rule R50). -/
def Instr.dataFits (v : Variant) (i : Instr) : Bool := decide (i.data.toNat < 2 ^ v.r)

/-- A command the command channel of variant `v` can carry. -/
def Instr.wf (v : Variant) (i : Instr) : Bool := i.lenFits v && i.dataFits v

end Sys2Proof
end

