-- ==== Sys2Proof/Decode.lean ====
section
/-! DEFINITION. The command word of rule R52 and its decoder (rule R53), then the encoder from the same fields, and the
host's reading of an opcode-table word. -/

namespace Sys2Proof

/-- Why a number is no command word: its width is the only ground there is, since every word of `CWW` bits is a command
(rules R53, R60). -/
inductive DecodeError
  /-- A bit at or above `CWW` is set, and the command channel has no such bit (rule R52). -/
  | widerThanCommandWord
deriving DecidableEq, Repr

/-- `CW[1:0]` (rule R52). -/
def opField {v : Variant} (cw : BitVec v.cww) : BitVec 2 := cw.extractLsb' 0 2

/-- `CW[LW+2:2]` (rule R52). -/
def lenField {v : Variant} (cw : BitVec v.cww) : BitVec (v.lw + 1) := cw.extractLsb' 2 (v.lw + 1)

/-- `CW[LW+2+r:LW+3]` (rule R52). -/
def dataField {v : Variant} (cw : BitVec v.cww) : BitVec v.r := cw.extractLsb' (v.lw + 3) v.r

/-- The command that the command code selects; the decode reads `op` alone (rule R53). -/
def decodeFields (op : BitVec 2) (len : LenWord) (data : Block) : Instr :=
  if op = 0b00#2 then .init len data
  else if op = 0b01#2 then .absorb len data
  else if op = 0b10#2 then .final len data
  else .rsv len data

/-- The command a command word stands for. Total: every word of the variant's width is a command (rules R53, R59, R60). -/
def decode (v : Variant) (cw : BitVec v.cww) : Instr :=
  decodeFields (opField cw) ((lenField cw).setWidth 5) ((dataField cw).setWidth 16)

/-- The command a number stands for; a number wider than the command word stands for none. -/
def decodeNat (v : Variant) (w : Nat) : Except DecodeError Instr :=
  if w < 2 ^ v.cww then .ok (decode v (BitVec.ofNat v.cww w)) else .error .widerThanCommandWord

/-- The command word with the three fields of rule R52. -/
def packWord {v : Variant} (op : BitVec 2) (len : BitVec (v.lw + 1)) (data : BitVec v.r) : BitVec v.cww :=
  op.setWidth v.cww ||| (len.setWidth v.cww <<< 2) ||| (data.setWidth v.cww <<< (v.lw + 3))

/-- The command word of a command: operand bits that the variant's channel lacks are dropped, and a well-formed command
has none set. -/
def encode (v : Variant) (i : Instr) : BitVec v.cww :=
  packWord i.op (i.len.setWidth (v.lw + 1)) (i.data.setWidth v.r)

/-- What the decoder reads from an opcode-table word of `nbits` bits, in the build that `State.reset` is the reset of
(log 11). The table numbers the bits of `CW` as rule R52 does, and the fields lie in no bytes: a command is presented in
parallel at one edge (rule R60). -/
def decodeTableWord (nbits w : Nat) : Option Instr :=
  match decodeNat Config.variant (w % 2 ^ nbits) with
  | .ok i => some i
  | .error _ => none

end Sys2Proof
end

