-- ==== Sys2Proof/Machine/Bits.lean ====
section
/-! DEFINITION. The bit-field operations the datapath rules are written with: writing bits one position at a time, and
reading the nibbles and bytes of a value (rules R12, R13, R20, R21). -/

namespace Sys2Proof.Machine

/-- The `m`-bit value built by `T <- 0; for t in 0 .. n-1: T[pos t] <- f t`, for a `pos` that sends no two of these `t` to
one position (the form of the loops of rules R69, R90 and R115). -/
def scatter (m : Nat) (pos : Nat → Nat) (f : Nat → Bool) : Nat → BitVec m
  | 0 => 0#m
  | n + 1 => scatter m pos f n ||| (if f n then BitVec.twoPow m (pos n) else 0#m)

/-- The `m`-bit value whose bit `i` is `f i`. -/
def tabulate (m : Nat) (f : Nat → Bool) : BitVec m := scatter m id f m

/-- Nibble `k` of a value, `v[4k+3:4k]` (rule R20). -/
def nibble {m : Nat} (x : BitVec m) (k : Nat) : Nibble := x.extractLsb' (4 * k) 4

/-- Byte `j` of a value, `v[8j+7:8j]` (rules R21, R40, R43). -/
def byteOf {m : Nat} (x : BitVec m) (j : Nat) : Byte := x.extractLsb' (8 * j) 8

end Sys2Proof.Machine
end

