-- ==== Sys2Proof/Machine/Operands.lean ====
section
/-! DEFINITION. The operand forms of the commands: the full block of `ABSORB`, the partial block and bit count of
`FINAL`, and the padding logic that completes it (30_encoding.md rules R54, R55; 44_padding.md). -/

namespace Sys2Proof.Machine

/-- `pos(t)`, where stream bit `t` of a block sits in the block (rules R41, R89). -/
def pos (o : BitOrder) (t : Nat) : Nat :=
  match o with
  | .msbFirst => 8 * (t / 8) + 7 - t % 8
  | .lsbFirst => t

/-- `PadBlock(d, k)` (rule R90): the first `k` stream bits of `d`, a `1`, then zeros. -/
def padBlock (o : BitOrder) {r : Nat} (d : BitVec r) (k : Nat) : BitVec r :=
  scatter r (pos o) (fun t => d.getLsbD (pos o t)) k ||| BitVec.twoPow r (pos o k)

/-- The `r`-bit block the `data` operand presents (rule R55); the port has no further bits (log 7). -/
def blockOperand (v : Variant) (data : Block) : BitVec v.r := data.setWidth v.r

/-- The number `k` that the `len` operand presents, as an unsigned number (rule R54). -/
def lenOperand (len : LenWord) : Nat := len.toNat

/-- `zext_b` of a block: it reaches the rate bits `S[r-1:0]` and no other (rules R19, R101). -/
def zextBlock (v : Variant) (d : BitVec v.r) : BitVec v.b := d.setWidth v.b

/-- The rate `S[r-1:0]` (rule R19). -/
def rate (v : Variant) (S : BitVec v.b) : BitVec v.r := S.setWidth v.r

end Sys2Proof.Machine
end

