-- ==== Sys2Proof/Machine/Permutation.lean ====
section
/-! DEFINITION. The datapath of the permutation: substitution layer (40_substitution_layer.md), diffusion layer
(41_diffusion_layer.md), round-constant generator (42_round_constant.md), and the round and the permutation they make
(43_permutation_engine.md). The constants follow the spec, which takes them from general knowledge (log 10). -/

namespace Sys2Proof.Machine

/-- The table `SBOX` (rule R63). -/
def sboxTable : List Nibble :=
  [0xE#4, 0xD#4, 0xB#4, 0x0#4, 0x2#4, 0x1#4, 0x4#4, 0xF#4, 0x7#4, 0xA#4, 0x8#4, 0x5#4, 0x9#4, 0xC#4, 0x3#4, 0x6#4]

/-- `SBOX[x]` (rule R63). -/
def sbox (x : Nibble) : Nibble := sboxTable.getD x.toNat 0#4

/-- Nibbles `0 .. k-1` of `SboxLayer(S)`, the others zero (the loop of rule R64). -/
def sboxNibbles {b : Nat} (S : BitVec b) : Nat → BitVec b
  | 0 => 0#b
  | k + 1 => sboxNibbles S k ||| ((sbox (nibble S k)).setWidth b <<< (4 * k))

/-- `SboxLayer(S)` (rule R64): every nibble replaced by its `SBOX` image. -/
def sboxLayer {b : Nat} (S : BitVec b) : BitVec b := sboxNibbles S (b / 4)

/-- `P_b(j)`, where input bit `j` goes (rule R68). -/
def pBox (b j : Nat) : Nat := if j = b - 1 then b - 1 else j * (b / 4) % (b - 1)

/-- `PLayer(S)` (rule R69): `T[P_b(j)] <- S[j]` for every `j`. -/
def pLayer {b : Nat} (S : BitVec b) : BitVec b := scatter b (pBox b) S.getLsbD b

/-- The feedback bit `fb(c)`, the exclusive-or of the tap bits (rule R74). -/
def feedback (v : Variant) (c : BitVec v.w) : Bool := v.taps.foldl (fun x i => x ^^ c.getLsbD i) false

/-- `LfsrNext(c) = ((c << 1) | fb(c)) mod 2^w` (rule R74). -/
def lfsrNext (v : Variant) (c : BitVec v.w) : BitVec v.w := (c <<< 1) ||| (BitVec.ofBool (feedback v c)).setWidth v.w

/-- `Ctr(t)`, the counter value of round `t` (rule R75). -/
def ctr (v : Variant) : Nat → BitVec v.w
  | 0 => v.ctr0
  | t + 1 => lfsrNext v (ctr v t)

/-- `Rev_w(c)`: the bit reversal, nothing complemented (rule R76, `90_conflicts.md` C4). -/
def rev {w : Nat} (c : BitVec w) : BitVec w := tabulate w fun i => c.getLsbD (w - 1 - i)

/-- `AddCounter(S, c) = S ⊕ zext_b(c) ⊕ (zext_b(Rev_w(c)) << (b-w))` (rule R78). -/
def addCounter {b w : Nat} (S : BitVec b) (c : BitVec w) : BitVec b :=
  S ^^^ c.setWidth b ^^^ ((rev c).setWidth b <<< (b - w))

/-- `Round(S, c) = PLayer(SboxLayer(AddCounter(S, c)))` (rule R82). -/
def permRound {b w : Nat} (S : BitVec b) (c : BitVec w) : BitVec b := pLayer (sboxLayer (addCounter S c))

/-- The state after the first `t` rounds of a permutation started with `S` (the loop of rule R83). -/
def rounds (v : Variant) (S : BitVec v.b) : Nat → BitVec v.b
  | 0 => S
  | t + 1 => permRound (rounds v S t) (ctr v t)

/-- `Perm(S)`: all `R` rounds (rule R83). -/
def perm (v : Variant) (S : BitVec v.b) : BitVec v.b := rounds v S v.rounds

/-- `Perm` applied `k` times (the `Perm^k` of rule R111). -/
def permIter (v : Variant) : Nat → BitVec v.b → BitVec v.b
  | 0, S => S
  | k + 1, S => permIter v k (perm v S)

end Sys2Proof.Machine
end

