-- ==== Sys2Proof/Machine/State.lean ====
section
/-! DEFINITION. The state of the core as plain data, the reasons a step can stop, and the state after reset. -/

namespace Sys2Proof.Machine

/-- The control register `ctl` (rule R25). All eight codes of its 3 bits are used, so the type is the register (log 14). -/
inductive Ctl
  | init | absWait | absPerm | finPerm | sqzOut | sqzPerm | done | error
deriving DecidableEq, Repr

/-- The error register `err` (rules R26, R122). All four codes of its 2 bits are used (log 14). -/
inductive Err
  | none | badcmd | seq | len
deriving DecidableEq, Repr

/-- The complete register set of a core of variant `v` (rule R32), each register at its own width. -/
structure Regs (v : Variant) where
  /-- the sponge state, `b` bits (rule R18) -/
  S : BitVec v.b
  /-- the round-constant counter, `w` bits (rule R22) -/
  lfsr : BitVec v.w
  /-- the round index, `RW = w` bits (rule R23) -/
  rnd : BitVec v.w
  /-- the output-block counter, `OW = 5` bits (rule R24) -/
  nout : BitVec 5
  /-- the control register, 3 bits (rule R25) -/
  ctl : Ctl
  /-- the error register, 2 bits (rule R26) -/
  err : Err
deriving DecidableEq, Repr

/-- The values the host drives on the input ports of a core of variant `v` at one edge (rules R50, R56, R58, R113).
Always Booleans and bit vectors: undefined input values are refused by the type (U14, log 18). -/
structure Pins (v : Variant) where
  rst : Bool
  cmdValid : Bool
  cmdOp : BitVec 2
  cmdLen : BitVec (v.lw + 1)
  cmdData : BitVec v.r
  outReady : Bool
deriving DecidableEq, Repr

/-- One core of variant `v` with the host's choices for it. -/
structure CoreState (v : Variant) where
  /-- the elaboration parameter `BIT_ORDER` of the build (rule R10): no step changes it (log 1) -/
  order : BitOrder
  /-- whether a reset edge has happened since power-up; before it the registers hold no defined value (rule R36, log 5) -/
  wasReset : Bool
  /-- the registers (rule R32) -/
  regs : Regs v
  /-- the host's input values for the coming edges, the next edge first (rule R113); past its end the host idles (log 3) -/
  host : List (Pins v)
  /-- the edges stepped so far: the counter at which a free output value is taken (log 6) -/
  cycle : Nat
deriving DecidableEq, Repr

/-- The state of the machine: the elaboration parameter `VARIANT` of the build (rule R6), which no step changes (log 1),
and a core of that variant. -/
structure State where
  variant : Variant
  core : CoreState variant
deriving DecidableEq, Repr

/-- The reasons the machine stops. The core's own errors are none of them: they are the register value `ctl = ERROR`, and
the machine goes on (rule R127). -/
inductive Fault
  /-- Raised by `step` at an edge with `rst = 0` before the first reset edge after power-up: the model admits no step
  there (rules R36, R141, treatment `stuck` of U1). Safe: the model stops where the hardware's registers are undefined. -/
  | beforeFirstReset
deriving DecidableEq, Repr

/-- The reasons something has no meaning in the model. -/
inductive Refusal
  /-- A command the model gives no meaning; no command is refused so. Safe. -/
  | notModelled (mnemonic : String)
  /-- Raised by `elaborate`, never by a step: the parameter set breaks a condition of rule R9, and no machine is built for
  it (U3). Safe: no core exists for it. -/
  | illegalParameterSet
  /-- Raised by `elaborate`, never by a step: the parameter set is legal but is no row of the table of rule R7, so no
  `VARIANT` names it (log 13). Safe: the model says nothing of such a core. -/
  | noSuchVariant
deriving DecidableEq, Repr

/-- The reset values of rule R35, every register. -/
def Regs.reset (v : Variant) : Regs v :=
  { S := 0#v.b, lfsr := v.ctr0, rnd := 0#v.w, nout := 0#5, ctl := .init, err := .none }

/-- A core right after a reset edge, with no host input listed. -/
def CoreState.reset (v : Variant) (o : BitOrder) : CoreState v :=
  { order := o, wasReset := true, regs := Regs.reset v, host := [], cycle := 0 }

/-- The machine right after reset (rules R35, R138), for the build `Config.variant`, `Config.order` (log 2). -/
def State.reset : State := { variant := Config.variant, core := CoreState.reset Config.variant Config.order }

end Sys2Proof.Machine
end

