-- ==== Sys2Proof/Machine/Ops.lean ====
section
/-! DEFINITION. The shared operations over the registers and the host's inputs: the control codes, error entry and the
return from it, the reset edge, the start and the round of a permutation, and the command transfer. -/

namespace Sys2Proof.Machine

/-! ## The control and error codes -/

/-- The code of `ctl` (the table of rule R25). -/
def Ctl.code : Ctl → BitVec 3
  | .init => 0#3
  | .absWait => 1#3
  | .absPerm => 2#3
  | .finPerm => 3#3
  | .sqzOut => 4#3
  | .sqzPerm => 5#3
  | .done => 6#3
  | .error => 7#3

/-- The code of `err` (the table of rule R122). -/
def Err.code : Err → BitVec 2
  | .none => 0#2
  | .badcmd => 1#2
  | .seq => 2#2
  | .len => 3#2

/-- The four states of the document's sponge (rule R25). -/
inductive Phase
  | init | absorbing | squeezing | done
deriving DecidableEq, Repr

/-- `phase(ctl)` (the table of rule R25); `ERROR` belongs to no phase. -/
def Ctl.phase : Ctl → Option Phase
  | .init => some .init
  | .absWait => some .absorbing
  | .absPerm => some .absorbing
  | .finPerm => some .absorbing
  | .sqzOut => some .squeezing
  | .sqzPerm => some .squeezing
  | .done => some .done
  | .error => none

/-- `busy`: a permutation is in progress (rule R27). -/
def Ctl.busy : Ctl → Bool
  | .absPerm | .finPerm | .sqzPerm => true
  | .init | .absWait | .sqzOut | .done | .error => false

/-- The states in which a command is accepted (rule R96). -/
def Ctl.accepts : Ctl → Bool
  | .init | .absWait | .done | .error => true
  | .absPerm | .finPerm | .sqzOut | .sqzPerm => false

/-- `Succ(ctl)`, where a completed permutation goes (rule R86). It is only used while `busy`; elsewhere `ctl` stays. -/
def Ctl.succ : Ctl → Ctl
  | .absPerm => .absWait
  | .finPerm => .sqzOut
  | .sqzPerm => .sqzOut
  | c => c

/-! ## Operations on the registers -/

variable {v : Variant}

/-- `raise Error(code)` (rule R127): `err` and `ctl` are written and nothing else. -/
def Regs.raiseError (g : Regs v) (code : Err) : Regs v := { g with err := code, ctl := .error }

/-- The return to the document's INIT state, from the error state and from everywhere else (rules R100, R131): every
register takes its reset value. -/
def Regs.returnToInit (_ : Regs v) : Regs v :=
  { S := 0#v.b, nout := 0#5, err := .none, ctl := .init, lfsr := ctr v 0, rnd := 0#v.w }

/-- `StartPerm` (rule R84). -/
def Regs.startPerm (g : Regs v) : Regs v := { g with lfsr := ctr v 0, rnd := 0#v.w }

/-- A block is exclusive-ored into the rate and a permutation started; `next` is the `ctl` it runs under (rules R101,
R102). -/
def Regs.absorbBlock (g : Regs v) (d : BitVec v.r) (next : Ctl) : Regs v :=
  { g.startPerm with S := g.S ^^^ zextBlock v d, ctl := next }

/-- The round step (rules R85, R86). `rnd + 1` is truncated to `w` bits, which changes it only in states that no run
reaches (rule R37, log 12). -/
def Regs.roundStep (g : Regs v) : Regs v :=
  if g.rnd.toNat = v.rounds - 1 then
    { g with S := permRound g.S g.lfsr, lfsr := lfsrNext v g.lfsr, rnd := 0#v.w, ctl := g.ctl.succ }
  else
    { g with S := permRound g.S g.lfsr, lfsr := lfsrNext v g.lfsr, rnd := g.rnd + 1#v.w }

/-- The registers after an output transfer (rule R103): the last block ends the hash with no further permutation (rule
R108), any other starts one on `S` as it is. `nout + 1` is truncated to 5 bits, which changes it only in states that no
run reaches (rule R37, log 12). -/
def Regs.outputTransfer (g : Regs v) : Regs v :=
  if g.nout.toNat = v.nb - 1 then
    { g with nout := g.nout + 1#5, ctl := .done }
  else
    { g.startPerm with nout := g.nout + 1#5, ctl := .sqzPerm }

/-- The dispatch of rule R99 that `ABSORB` and `FINAL` share: nothing in `ERROR` (rule R128), `SEQ` in `DONE` (rule
R125), else the command's own effect. -/
def Regs.blockCommand (g : Regs v) (effect : Regs v → Regs v) : Regs v :=
  if g.ctl = .error then g else if g.ctl = .done then g.raiseError .seq else effect g

/-! ## Operations on the core and the state -/

/-- The core with these registers, everything else as it is. -/
def CoreState.withRegs (c : CoreState v) (g : Regs v) : CoreState v := { c with regs := g }

/-- The inputs of a host that does nothing at an edge (`IDLE`, rule R61). -/
def Pins.idle (v : Variant) : Pins v :=
  { rst := false, cmdValid := false, cmdOp := 0#2, cmdLen := 0#(v.lw + 1), cmdData := 0#v.r, outReady := false }

/-- The host's inputs at the coming edge: the first listed, or idle inputs when none is listed (log 3). -/
def CoreState.pins (c : CoreState v) : Pins v := c.host.headD (Pins.idle v)

/-- One edge has passed: its inputs are consumed and the cycle counter advances. No register changes. -/
def CoreState.tick (c : CoreState v) : CoreState v := { c with host := c.host.tail, cycle := c.cycle + 1 }

/-- The reset edge (rule R138): every register takes its reset value. -/
def CoreState.resetEdge (c : CoreState v) : CoreState v := { c with wasReset := true, regs := Regs.reset v }

/-- A core after power-up and before any reset edge, with whatever its registers hold (rules R36, R137, R141). -/
def CoreState.powerUp (o : BitOrder) (g : Regs v) (host : List (Pins v)) : CoreState v :=
  { order := o, wasReset := false, regs := g, host := host, cycle := 0 }

/-- The effect of a transferred command on the registers. Where `cmd_ready = 0` no command is transferred and an offered
one has no effect (rules R51, R96, log 8). -/
def CoreState.onTransfer (c : CoreState v) (effect : Regs v → Regs v) : CoreState v :=
  if c.regs.ctl.accepts then c.withRegs (effect c.regs) else c

/-- The state with its core changed by `f`; the variant stays (rule R6). -/
def State.mapCore (s : State) (f : CoreState s.variant → CoreState s.variant) : State :=
  { variant := s.variant, core := f s.core }

/-- The command word on the command channel (rule R52). -/
def Pins.commandWord (p : Pins v) : BitVec v.cww := packWord p.cmdOp p.cmdLen p.cmdData

/-- The command on the command channel at the coming edge: what the decoder reads there (rule R53). -/
def CoreState.offered (c : CoreState v) : Instr := decode v c.pins.commandWord

/-- The inputs that offer the command with this command word, and take no output. -/
def Pins.offerWord (v : Variant) (cw : BitVec v.cww) : Pins v :=
  { Pins.idle v with cmdValid := true, cmdOp := opField cw, cmdLen := lenField cw, cmdData := dataField cw }

/-- The inputs that offer a command, and take no output. -/
def Pins.offer (v : Variant) (i : Instr) : Pins v := Pins.offerWord v (encode v i)

/-- The core with these inputs at the coming edge, in place of the ones listed for it; later edges keep theirs. -/
def CoreState.withPins (c : CoreState v) (p : Pins v) : CoreState v := { c with host := p :: c.host.tail }

end Sys2Proof.Machine
end

