-- ==== Sys2Proof/Machine/Commands.lean ====
section
/-! DEFINITION. The meanings of the four commands (45_sponge_commands.md rules R99 to R102, 60_exceptions.md rules R122
to R131), each at its transfer edge. -/

namespace Sys2Proof.Machine

/-- `INIT` (rule R100): accepted in every state with `cmd_ready = 1`, never rejected. -/
def execInit (s : State) : Host.Outcome State Fault Refusal :=
  .next (s.mapCore fun c => c.onTransfer fun g => g.returnToInit)

/-- `ABSORB` (rule R101): every bit of `data` is a message bit; `SEQ` in `DONE` (rule R125), no effect in `ERROR` (rule
R128). -/
def execAbsorb (data : Block) (s : State) : Host.Outcome State Fault Refusal :=
  .next (s.mapCore fun c => c.onTransfer fun g => g.blockCommand fun g =>
    g.absorbBlock (blockOperand s.variant data) .absPerm)

/-- `FINAL` (rule R102): `LEN` if `len >= r` (rule R126), else the padded block is absorbed; `SEQ` in `DONE` comes first
(rule R129), no effect in `ERROR` (rule R128). -/
def execFinal (len : LenWord) (data : Block) (s : State) : Host.Outcome State Fault Refusal :=
  .next (s.mapCore fun c => c.onTransfer fun g => g.blockCommand fun g =>
    if s.variant.r ≤ lenOperand len then g.raiseError .len
    else g.absorbBlock (padBlock c.order (blockOperand s.variant data) (lenOperand len)) .finPerm)

/-- The reserved code (rule R124): `BADCMD` in `INIT`, `ABS_WAIT` and `DONE`, no effect in `ERROR` (rule R128). -/
def execRsv (s : State) : Host.Outcome State Fault Refusal :=
  .next (s.mapCore fun c => c.onTransfer fun g => if g.ctl = .error then g else g.raiseError .badcmd)

end Sys2Proof.Machine
end

