-- ==== Sys2Proof/Machine/Dispatch.lean ====
section
/-! DEFINITION. One arm per command: the dispatch of rule R99 by `op`. -/

namespace Sys2Proof.Machine

def exec (i : Instr) (s : State) : Host.Outcome State Fault Refusal :=
  match i with
  | .init _ _ => Sys2Proof.Machine.execInit s
  | .absorb _ data => Sys2Proof.Machine.execAbsorb data s
  | .final len data => Sys2Proof.Machine.execFinal len data s
  | .rsv _ _ => Sys2Proof.Machine.execRsv s

end Sys2Proof.Machine
end

