-- ==== Sys2Proof/Machine/Flags.lean ====
section
/-! DEFINITION. The core has no flags (rule R34). What a host can observe instead: the status and handshake outputs
(rules R28, R96, R98, R136, R140), and the two transfers (rules R51, R57). -/

namespace Sys2Proof.Machine

/-- The output ports in a cycle with `rst = 1` (rule R140), whatever the registers hold; `out_data` is the free value. -/
def resetPorts (freeData : Block) : Ports :=
  { cmdReady := false, outValid := false, outLast := false, outData := freeData,
    stCtl := Ctl.init.code, stBusy := false, stErr := Err.none.code }

/-- The output ports in a cycle with `rst = 0` after the first reset edge (rules R28, R96, R98); `out_data` is the free
value while `out_valid = 0` (rule R145). -/
def runPorts {v : Variant} (g : Regs v) (freeData : Block) : Ports :=
  { cmdReady := g.ctl.accepts
    outValid := decide (g.ctl = .sqzOut)
    outLast := decide (g.ctl = .sqzOut ∧ g.nout.toNat = v.nb - 1)
    outData := if g.ctl = .sqzOut then (rate v g.S).setWidth 16 else freeData
    stCtl := g.ctl.code
    stBusy := g.ctl.busy
    stErr := g.err.code }

variable {v : Variant}

/-- The free value of `out_data` in this cycle: any `r`-bit value (rules R98, R145, log 6). -/
def CoreState.freeData (c : CoreState v) : Block := ((Config.freePorts c.cycle).outData.setWidth v.r).setWidth 16

/-- The output ports of the core as a function of its state and of `rst` alone (rules R16, R148). Before the first reset
edge they are given only where `rst = 1`; elsewhere there they are free (rule R141). -/
def CoreState.portsAt (c : CoreState v) (rst : Bool) : Ports :=
  if rst then resetPorts c.freeData
  else if c.wasReset then runPorts c.regs c.freeData
  else { Config.freePorts c.cycle with outData := c.freeData }

/-- The output ports in the cycle that ends with the coming edge. -/
def CoreState.ports (c : CoreState v) : Ports := c.portsAt c.pins.rst

/-- `CmdXfer` at the coming edge (rule R51). -/
def CoreState.cmdXfer (c : CoreState v) : Bool := !c.pins.rst && c.pins.cmdValid && c.ports.cmdReady

/-- `OutXfer` at the coming edge (rule R57). -/
def CoreState.outXfer (c : CoreState v) : Bool := !c.pins.rst && c.ports.outValid && c.pins.outReady

/-- The command transferred at the coming edge, if one is. -/
def CoreState.commandTaken (c : CoreState v) : Option Instr := if c.cmdXfer then some c.offered else none

/-- The output block transferred at the coming edge, if one is (rules R43, R57). -/
def CoreState.blockTaken (c : CoreState v) : Option Block := if c.outXfer then some c.ports.outData else none

end Sys2Proof.Machine
end

