-- ==== Sys2Proof/Machine/Edges.lean ====
section
/-! DEFINITION. What an edge does besides a command transfer: the round step of the permutation engine (rules R85, R86)
and the output transfer `READ` (rule R103). -/

namespace Sys2Proof.Machine

variable {v : Variant}

/-- The round step at an edge at which `busy` holds (rules R85, R86). -/
def CoreState.roundEdge (c : CoreState v) : CoreState v := c.withRegs c.regs.roundStep

/-- The output transfer `READ` (rule R103). -/
def CoreState.readEdge (c : CoreState v) : CoreState v := c.withRegs c.regs.outputTransfer

end Sys2Proof.Machine
end

