-- ==== Sys2Proof/Machine/Step.lean ====
section
/-! DEFINITION. One rising clock edge (rule R97), and the host's way to place a command. -/

namespace Sys2Proof.Machine

/-- One edge: exactly one of reset, round step, output transfer, command dispatch and hold, tested in the order of rule
R97. Before the first reset edge only a reset edge is a step (rules R36, R141). -/
def step (s : State) : Host.Outcome State Fault Refusal :=
  if s.core.pins.rst then .next (s.mapCore fun c => c.tick.resetEdge)
  else if s.core.wasReset = false then .fault .beforeFirstReset
  else if s.core.regs.ctl.busy then .next (s.mapCore fun c => c.tick.roundEdge)
  else if s.core.outXfer then .next (s.mapCore fun c => c.tick.readEdge)
  else if s.core.cmdXfer then exec s.core.offered (s.mapCore fun c => c.tick)
  else .next (s.mapCore fun c => c.tick)

/-- The state in which the host offers the command with command word `w` (its low `nbits` bits) at the coming edge, with
`rst = 0`; nothing else changes. The core fetches no program (rules R33, R49): this stands for the host's choice of inputs
(log 4). The next step runs the command exactly where the core accepts one (rule R96). -/
def State.withFetchWord (s : State) (nbits w : Nat) : State :=
  s.mapCore fun c => c.withPins (Pins.offerWord s.variant (BitVec.ofNat s.variant.cww (w % 2 ^ nbits)))

end Sys2Proof.Machine
end

