-- ==== Sys2Proof/Machine/Elaborate.lean ====
section
/-! DEFINITION. Building a core from a parameter set (rules R6, R9, R132). -/

namespace Sys2Proof.Machine

/-- The core built from a parameter set, in its power-up state with whatever its registers hold. An illegal set is refused
and no machine is built (rule R9, U3); so is a legal one that no `VARIANT` names (rule R7, log 13). -/
def elaborate (p : ParamSet) (o : BitOrder) (powerUpRegs : (v : Variant) → Regs v) : Host.Outcome State Fault Refusal :=
  if p.legal then
    match Variant.ofParams? p with
    | some v => .next { variant := v, core := CoreState.powerUp o (powerUpRegs v) [] }
    | none => .refused .noSuchVariant
  else .refused .illegalParameterSet

end Sys2Proof.Machine
end

