-- ==== Sys2Proof/Machine/Message.lean ====
section
/-! DEFINITION. The message, its padding, the commands that hash it, and the hash function (44_padding.md rule R91,
46_host_protocol.md rules R114 to R116). -/

namespace Sys2Proof.Machine

/-- Stream bit `t` of a message (rule R114). Beyond the last byte it reads 0, where a host's own check `L <= 8·|M|` lets no
bit be read (rule R121, log 15). -/
def messageBit (o : BitOrder) (M : List Byte) (t : Nat) : Bool :=
  match o with
  | .msbFirst => (M.getD (t / 8) 0#8).getLsbD (7 - t % 8)
  | .lsbFirst => (M.getD (t / 8) 0#8).getLsbD (t % 8)

/-- The stream of the `L` message bits. -/
def messageBits (o : BitOrder) (M : List Byte) (L : Nat) : List Bool := (List.range L).map (messageBit o M)

/-- `Pad(M, L) = M || 1 || 0^z` with `z = r - 1 - (L mod r)` (rule R91). -/
def pad (o : BitOrder) (r : Nat) (M : List Byte) (L : Nat) : List Bool :=
  messageBits o M L ++ true :: List.replicate (r - 1 - L % r) false

/-- Block `i` of a stream of bits: stream bit `i·r + t` at block bit `pos(t)` (rules R42, R115, R116). -/
def streamBlock (o : BitOrder) (r : Nat) (bits : List Bool) (i : Nat) : BitVec r :=
  scatter r (pos o) (fun t => bits.getD (i * r + t) false) r

/-- The number of `ABSORB` commands of a message, `⌊L/r⌋` (rule R115). -/
def fullBlocks (v : Variant) (L : Nat) : Nat := L / v.r

/-- The block of the `i`-th `ABSORB` of a message (rule R115). -/
def messageBlock (v : Variant) (o : BitOrder) (M : List Byte) (L i : Nat) : BitVec v.r :=
  streamBlock o v.r (messageBits o M L) i

/-- `HashCommands(M, L)` up to its output transfers, with zeros where any value may stand (rule R115). -/
def hashCommands (v : Variant) (o : BitOrder) (M : List Byte) (L : Nat) : List Instr :=
  (List.range (fullBlocks v L)).map (fun i => .absorb 0#5 ((messageBlock v o M L i).setWidth 16)) ++
    [.final (BitVec.ofNat 5 (L % v.r)) ((messageBlock v o M L (fullBlocks v L)).setWidth 16)]

/-- The sponge state after the first `i` padded blocks (the first loop of rule R116). -/
def absorbed (v : Variant) (o : BitOrder) (M : List Byte) (L : Nat) : Nat → BitVec v.b
  | 0 => 0#v.b
  | i + 1 => perm v (absorbed v o M L i ^^^ zextBlock v (streamBlock o v.r (pad o v.r M L) i))

/-- `Z_k`, output block `k` of the hash (the second loop of rule R116). -/
def hashBlock (v : Variant) (o : BitOrder) (M : List Byte) (L k : Nat) : BitVec v.r :=
  rate v (permIter v k (absorbed v o M L (fullBlocks v L + 1)))

/-- `Z_0 .. Z_(NB-1)` as the output channel carries them. -/
def hashBlocks (v : Variant) (o : BitOrder) (M : List Byte) (L : Nat) : List Block :=
  (List.range v.nb).map fun k => (hashBlock v o M L k).setWidth 16

/-- Digest byte `q` of a list of output blocks (rules R43, R116). -/
def digestByte (r : Nat) (blocks : List Block) (q : Nat) : Byte :=
  byteOf (blocks.getD (q / (r / 8)) 0#16) (q % (r / 8))

/-- The digest bytes of a list of output blocks (rule R107). -/
def digestOf (v : Variant) (blocks : List Block) : List Byte := (List.range (v.n / 8)).map (digestByte v.r blocks)

/-- `Hash(M, L)` (rule R116). -/
def spongentHash (v : Variant) (o : BitOrder) (M : List Byte) (L : Nat) : List Byte := digestOf v (hashBlocks v o M L)

end Sys2Proof.Machine
end

