-- ==== Sys2Proof/Machine/Trace.lean ====
section
/-! DEFINITION. Runs of several edges, and what is transferred on the two channels during them (rules R51, R57, R120). -/

namespace Sys2Proof.Machine

/-- `k` edges, stopping at the first stop. -/
def run : Nat → State → Host.Outcome State Fault Refusal
  | 0, s => .next s
  | k + 1, s =>
    match step s with
    | .next t => run k t
    | .fault f => .fault f
    | .refused x => .refused x

/-- The commands transferred during `k` edges, in order. -/
def commandsTaken : Nat → State → List Instr
  | 0, _ => []
  | k + 1, s =>
    s.core.commandTaken.toList ++
      match step s with
      | .next t => commandsTaken k t
      | .fault _ => []
      | .refused _ => []

/-- The output blocks transferred during `k` edges, in order. -/
def blocksTaken : Nat → State → List Block
  | 0, _ => []
  | k + 1, s =>
    s.core.blockTaken.toList ++
      match step s with
      | .next t => blocksTaken k t
      | .fault _ => []
      | .refused _ => []

end Sys2Proof.Machine
end

