-- ==== Sys2Proof/Machine/HostProgram.lean ====
section
/-! DEFINITION. Host programs: the line syntax of rule R61, the pseudo-commands of rule R62, and an eager host that drives
the core's inputs line by line (95_test_vectors.md section P). -/

namespace Sys2Proof.Machine

/-- One line of a host program (rule R61). -/
inductive Line
  | init
  | absorb (d : Block)
  | final (k : LenWord) (d : Block)
  | rsv (k : LenWord) (d : Block)
  | read
  /-- `IDLE m`; `IDLE 0` takes no edge. -/
  | idle (m : Nat)
  /-- `RESET m` with `m >= 1`; `RESET 0`, which the syntax does not have, takes no edge (log 16). -/
  | reset (m : Nat)
deriving DecidableEq, Repr

/-- The command a line offers (the encoding column of rule R61). -/
def Line.command : Line → Option Instr
  | .init => some (.init 0#5 0#16)
  | .absorb d => some (.absorb 0#5 d)
  | .final k d => some (.final k d)
  | .rsv k d => some (.rsv k d)
  | .read => none
  | .idle _ => none
  | .reset _ => none

/-- The inputs an eager host drives in a cycle, and the program lines left after the edge. A command line is done at its
transfer, `READ` at an output transfer, `IDLE m` and `RESET m` after `m` edges; after the last line the host idles. -/
def drive {v : Variant} (c : CoreState v) : List Line → Pins v × List Line
  | [] => (Pins.idle v, [])
  | .read :: rest =>
    ({ Pins.idle v with outReady := true }, if (c.portsAt false).outValid then rest else .read :: rest)
  | .idle 0 :: rest => drive c rest
  | .idle (m + 1) :: rest => (Pins.idle v, if m = 0 then rest else .idle m :: rest)
  | .reset 0 :: rest => drive c rest
  | .reset (m + 1) :: rest => ({ Pins.idle v with rst := true }, if m = 0 then rest else .reset m :: rest)
  | .init :: rest => (Pins.offer v (.init 0#5 0#16), if (c.portsAt false).cmdReady then rest else .init :: rest)
  | .absorb d :: rest =>
    (Pins.offer v (.absorb 0#5 d), if (c.portsAt false).cmdReady then rest else .absorb d :: rest)
  | .final k d :: rest =>
    (Pins.offer v (.final k d), if (c.portsAt false).cmdReady then rest else .final k d :: rest)
  | .rsv k d :: rest => (Pins.offer v (.rsv k d), if (c.portsAt false).cmdReady then rest else .rsv k d :: rest)

/-- A host program being played: the lines left, the core's state and the output blocks taken so far. -/
structure Played where
  lines : List Line
  state : State
  blocks : List Block
deriving DecidableEq, Repr

/-- One edge of a played program. The state's own list of inputs plays no part. -/
def playEdge (q : Played) : Host.Outcome Played Fault Refusal :=
  let d := drive q.state.core q.lines
  let c : CoreState q.state.variant := { q.state.core with host := [d.1] }
  match step { variant := q.state.variant, core := c } with
  | .next t => .next { lines := d.2, state := t, blocks := q.blocks ++ c.blockTaken.toList }
  | .fault f => .fault f
  | .refused x => .refused x

/-- `k` edges of a played program. -/
def play : Nat → Played → Host.Outcome Played Fault Refusal
  | 0, q => .next q
  | k + 1, q =>
    match playEdge q with
    | .next q' => play k q'
    | .fault f => .fault f
    | .refused x => .refused x

/-- The block `Σ b_j · 2^(8j)` of message bytes in message order (rule R62). -/
def blockOfBytes : List Byte → Nat
  | [] => 0
  | b :: bs => b.toNat + 256 * blockOfBytes bs

/-- `ABSORB.B b0, …` (rule R62). -/
def absorbBytes (bs : List Byte) : Line := .absorb (BitVec.ofNat 16 (blockOfBytes bs))

/-- The program line that offers a command. -/
def Line.ofCommand : Instr → Line
  | .init _ _ => .init
  | .absorb _ d => .absorb d
  | .final k d => .final k d
  | .rsv k d => .rsv k d

/-- `MSG hexbytes, L` (rule R62). -/
def msgLines (v : Variant) (o : BitOrder) (M : List Byte) (L : Nat) : List Line :=
  (hashCommands v o M L).map Line.ofCommand

/-- `READALL` (rule R62). -/
def readAll (v : Variant) : List Line := List.replicate v.nb .read

/-- `HASH hexbytes, L` (rule R62). -/
def hashLines (v : Variant) (o : BitOrder) (M : List Byte) (L : Nat) : List Line := msgLines v o M L ++ readAll v

end Sys2Proof.Machine
end

