-- ==== Sys2Proof/Machine/Transaction.lean ====
section
/-! DEFINITION. The transaction level of rule R5: one transfer and the permutation it starts as one step (rules R109,
R110). The edges it stands for are counted by rule R149. -/

namespace Sys2Proof.Machine

variable {v : Variant}

/-- The registers after the last round of a permutation started on them (rules R86, R87): `lfsr` is left at `Ctr(R)`. -/
def Regs.completePermutation (g : Regs v) : Regs v :=
  { g with S := perm v g.S, lfsr := ctr v v.rounds, rnd := 0#v.w, ctl := g.ctl.succ }

/-- The core after the permutation it has just started, if it has started one. No input is consumed. -/
def CoreState.settle (c : CoreState v) : CoreState v :=
  if c.regs.ctl.busy then c.withRegs c.regs.completePermutation else c

/-- The edges a transfer uses that leaves the core so: one, and `R` more if it started a permutation (rule R149). -/
def CoreState.transferEdges (c : CoreState v) : Nat := if c.regs.ctl.busy then 1 + v.rounds else 1

/-- `k` edges have passed and no register has changed. -/
def CoreState.elapse (c : CoreState v) (k : Nat) : CoreState v := { c with host := c.host.drop k, cycle := c.cycle + k }

/-- One accepted command and the permutation it starts, as one step (rules R5, R109, R110). -/
def transact (i : Instr) (s : State) : Host.Outcome State Fault Refusal :=
  match exec i s with
  | .next t => .next (t.mapCore CoreState.settle)
  | .fault f => .fault f
  | .refused x => .refused x

/-- One output transfer and the permutation it starts, as one step. -/
def readTransact (c : CoreState v) : CoreState v := c.readEdge.settle

end Sys2Proof.Machine
end

