-- ==== Sys2Proof/Safety.lean ====
section
/-! DEFINITION. The words claims are stated with: the invariant of rule R37, the control moves of rule R95, the host's
duties of rule R118, and the command sequence of rule R115. -/

namespace Sys2Proof.Machine

variable {v : Variant}

/-- The clauses of rule R37 about `nout`. -/
def Regs.noutInRange (g : Regs v) : Prop :=
  match g.ctl with
  | .init | .absWait | .absPerm | .finPerm => g.nout.toNat = 0
  | .sqzOut => g.nout.toNat ≤ v.nb - 1
  | .sqzPerm => 1 ≤ g.nout.toNat ∧ g.nout.toNat ≤ v.nb - 1
  | .done => g.nout.toNat = v.nb
  | .error => g.nout.toNat ≤ v.nb

/-- What holds of the registers in every state reachable from reset (rule R37). -/
structure Regs.Inv (g : Regs v) : Prop where
  rnd_le : g.rnd.toNat ≤ v.rounds - 1
  rnd_idle : g.ctl.busy = false → g.rnd = 0#v.w
  lfsr_busy : g.ctl.busy = true → g.lfsr = ctr v g.rnd.toNat
  nout_range : g.noutInRange
  err_iff : g.err ≠ .none ↔ g.ctl = .error

/-- The invariant of a core: before the first reset edge the registers hold no defined value and nothing is said of them
(rule R36). -/
def CoreState.Inv (c : CoreState v) : Prop := c.wasReset = true → c.regs.Inv

/-- The invariant of the machine. -/
def State.Inv (s : State) : Prop := s.core.Inv

/-- A core past its first reset edge whose host drives `rst = 0` at every one of the coming `k` edges. -/
def CoreState.runs (c : CoreState v) (k : Nat) : Prop := c.wasReset = true ∧ ∀ p ∈ c.host.take k, p.rst = false

/-- A core in the document's INIT state (rules R117, R118 (2), R143). `lfsr` and `rnd` may hold anything: every
`StartPerm` reloads them. -/
def CoreState.fresh (c : CoreState v) : Prop :=
  c.wasReset = true ∧ c.regs.ctl = .init ∧ c.regs.S = 0#v.b ∧ c.regs.nout = 0#5 ∧ c.regs.err = .none

/-- `cmds` are the commands of `HashCommands(M, L)` (rules R115, R118 (3)): the full blocks in order, then one `FINAL`;
the ignored operand bits hold any value. -/
def IsHashCommands (v : Variant) (o : BitOrder) (M : List Byte) (L : Nat) (cmds : List Instr) : Prop :=
  cmds.length = L / v.r + 1 ∧
  (∀ i < L / v.r, ∃ len data, cmds[i]? = some (.absorb len data) ∧
    ∀ t < v.r, data.getLsbD (pos o t) = messageBit o M (i * v.r + t)) ∧
  ∃ len data, cmds[L / v.r]? = some (.final len data) ∧ len.toNat = L % v.r ∧
    ∀ t < L % v.r, data.getLsbD (pos o t) = messageBit o M (L / v.r * v.r + t)

/-- The moves of `ctl` at an edge after the first reset edge (the table of rule R95; the last disjunct is its "any edge
not listed leaves `ctl` unchanged"). `c` is the core before the edge and `d` after it. -/
def CtlMove (c d : CoreState v) : Prop :=
  if c.pins.rst then d.regs.ctl = .init
  else match c.regs.ctl with
  | .init | .absWait =>
    match c.commandTaken with
    | none => d.regs.ctl = c.regs.ctl
    | some (.init _ _) => d.regs.ctl = .init
    | some (.absorb _ _) => d.regs.ctl = .absPerm
    | some (.final len _) =>
      (len.toNat < v.r → d.regs.ctl = .finPerm) ∧ (v.r ≤ len.toNat → d.regs.ctl = .error ∧ d.regs.err = .len)
    | some (.rsv _ _) => d.regs.ctl = .error ∧ d.regs.err = .badcmd
  | .absPerm => d.regs.ctl = if c.regs.rnd.toNat = v.rounds - 1 then .absWait else .absPerm
  | .finPerm => d.regs.ctl = if c.regs.rnd.toNat = v.rounds - 1 then .sqzOut else .finPerm
  | .sqzOut =>
    match c.blockTaken with
    | none => d.regs.ctl = .sqzOut
    | some _ =>
      (c.regs.nout.toNat < v.nb - 1 → d.regs.ctl = .sqzPerm) ∧ (c.regs.nout.toNat = v.nb - 1 → d.regs.ctl = .done)
  | .sqzPerm => d.regs.ctl = if c.regs.rnd.toNat = v.rounds - 1 then .sqzOut else .sqzPerm
  | .done =>
    match c.commandTaken with
    | none => d.regs.ctl = .done
    | some (.init _ _) => d.regs.ctl = .init
    | some (.absorb _ _) => d.regs.ctl = .error ∧ d.regs.err = .seq
    | some (.final _ _) => d.regs.ctl = .error ∧ d.regs.err = .seq
    | some (.rsv _ _) => d.regs.ctl = .error ∧ d.regs.err = .badcmd
  | .error =>
    match c.commandTaken with
    | some (.init _ _) => d.regs.ctl = .init
    | none | some (.absorb _ _) | some (.final _ _) | some (.rsv _ _) => d.regs.ctl = .error ∧ d.regs.err = c.regs.err

end Sys2Proof.Machine
end

