-- ==== Sys2Proof/Certificates/Slice0/Obligations.lean ====
section
/-! DEFINITION. The statements for the provers, from the numbered rules of spec/. A machine of variant `v` is written
`⟨v, c⟩` with `c` its core; `c.tick` is `c` after the edge's inputs are consumed, with every register as it was. -/

open Sys2Proof Sys2Proof.Machine

/-! ## Encoding -/

/-- Rules R50, R52, R53: decoding the command word of a command the channel can carry gives the command back, every bit of
both operands included. -/
def Obligations.DecodeInvertsEncode : Prop :=
  ∀ (v : Variant) (i : Instr), i.wf v = true → decode v (encode v i) = i

/-- Rules R52, R53, R60: every command word is the word of the one command it decodes to, and the channel can carry that
command. -/
def Obligations.EncodeInvertsDecode : Prop :=
  ∀ (v : Variant) (cw : BitVec v.cww), encode v (decode v cw) = cw ∧ (decode v cw).wf v = true

/-- Rule R53: `op` alone selects the command. -/
def Obligations.OpAloneSelectsTheCommand : Prop :=
  ∀ (v : Variant) (cw : BitVec v.cww),
    (opField cw = 0b00#2 ↔ ∃ len data, decode v cw = .init len data) ∧
    (opField cw = 0b01#2 ↔ ∃ len data, decode v cw = .absorb len data) ∧
    (opField cw = 0b10#2 ↔ ∃ len data, decode v cw = .final len data) ∧
    (opField cw = 0b11#2 ↔ ∃ len data, decode v cw = .rsv len data)

/-- 95_test_vectors.md sections V6 and P: command words of the spec and the commands they stand for. -/
def Obligations.SpecCommandWordsDecode : Prop :=
  decode .s88 0x0000#14 = .init 0 0 ∧ decode .s88 0x1841#14 = .absorb 0 0x61 ∧ decode .s88 0x1855#14 = .absorb 5 0x61 ∧
  decode .s88 0x3F9E#14 = .final 7 0xFE ∧ decode .s88 0x003E#14 = .final 15 0 ∧ decode .s88 0x0003#14 = .rsv 0 0 ∧
  decode .s160 0x004006#23 = .final 1 0x0080 ∧ decode .s160 0x7FFF82#23 = .final 0 0xFFFF ∧
  decode .s256 0x313081#23 = .absorb 0 0x6261 ∧ decode .s256 0x0031A2#23 = .final 8 0x0063

/-- Rule R52 (the model's choice of log 11 for numbers wider than a command word): a number is read as a command exactly
when it has no bit at or above `CWW`. -/
def Obligations.WiderNumbersAreNoCommands : Prop :=
  ∀ (v : Variant) (w : Nat),
    (w < 2 ^ v.cww → decodeNat v w = .ok (decode v (BitVec.ofNat v.cww w))) ∧
    (2 ^ v.cww ≤ w → decodeNat v w = .error .widerThanCommandWord)

/-! ## The edge -/

/-- Rules R51, R97, R99: at an edge with a command transfer the step is the dispatch of the command that the decoder reads
on the channel; for every command the channel can carry there are inputs that offer it. -/
def Obligations.StepRunsTheOfferedCommand : Prop :=
  ∀ (v : Variant) (c : CoreState v), c.wasReset = true → c.regs.ctl.accepts = true →
    (c.pins.rst = false → c.pins.cmdValid = true →
      step ⟨v, c⟩ = exec (decode v c.pins.commandWord) ⟨v, c.tick⟩) ∧
    (∀ i : Instr, i.wf v = true → step ⟨v, c.withPins (Pins.offer v i)⟩ = exec i ⟨v, c.tick⟩)

/-- The model's reading of an opcode-table word (log 4, log 11): where the core accepts commands, the step after
`withFetchWord` runs the command of that word, and in the reset state it is the one `decodeTableWord` reads. -/
def Obligations.FetchWordIsTheNextCommand : Prop :=
  (∀ (v : Variant) (c : CoreState v) (nbits w : Nat), c.wasReset = true → c.regs.ctl.accepts = true →
    w < 2 ^ nbits → w < 2 ^ v.cww →
    step ((State.mk v c).withFetchWord nbits w) = exec (decode v (BitVec.ofNat v.cww w)) ⟨v, c.tick⟩) ∧
  (∀ (nbits w : Nat) (i : Instr), decodeTableWord nbits w = some i →
    step (State.reset.withFetchWord nbits w) = exec i ⟨Config.variant, State.reset.core.tick⟩)

/-- Rule R138: a reset edge gives every register its reset value, in every state, also before the first reset, and nothing
else happens at it. -/
def Obligations.ResetEdgeDominates : Prop :=
  ∀ (v : Variant) (c : CoreState v), c.pins.rst = true →
    c.commandTaken = none ∧ c.blockTaken = none ∧
    step ⟨v, c⟩ = .next ⟨v, { c.tick with wasReset := true, regs :=
      { S := 0#v.b, lfsr := ctr v 0, rnd := 0#v.w, nout := 0#5, ctl := .init, err := .none } }⟩

/-- Rule R139: `m >= 1` reset edges leave the registers that one leaves. -/
def Obligations.HoldingResetIsOneReset : Prop :=
  ∀ (v : Variant) (c : CoreState v) (m : Nat), 1 ≤ m → m ≤ c.host.length → (∀ p ∈ c.host.take m, p.rst = true) →
    run m ⟨v, c⟩ = .next ⟨v, { c.elapse m with wasReset := true, regs := Regs.reset v }⟩

/-- Rules R36, R141: the machine stops exactly at an edge with `rst = 0` before the first reset edge, and refuses nothing. -/
def Obligations.NoStepBeforeTheFirstReset : Prop :=
  ∀ (v : Variant) (c : CoreState v),
    (step ⟨v, c⟩ = .fault .beforeFirstReset ↔ c.wasReset = false ∧ c.pins.rst = false) ∧
    (¬ (c.wasReset = false ∧ c.pins.rst = false) → ∃ d : CoreState v, step ⟨v, c⟩ = .next ⟨v, d⟩)

/-- Rules R36, R142: after power-up, whatever the registers hold, one reset edge leads to `ctl = INIT`, and in the next
cycle with `rst = 0` the core accepts a command. -/
def Obligations.OneResetEdgeBoots : Prop :=
  ∀ (v : Variant) (o : BitOrder) (p q : Pins v) (ps : List (Pins v)), p.rst = true → q.rst = false →
    ∃ d : CoreState v, d.regs.ctl = .init ∧ d.pins = q ∧ d.ports.cmdReady = true ∧
      ∀ g : Regs v, step ⟨v, CoreState.powerUp o g (p :: q :: ps)⟩ = .next ⟨v, d⟩

/-- Rule R105: an edge with no round step, no output transfer and no command transfer changes no register; a presented
block stays as it is. -/
def Obligations.IdleEdgeHoldsEveryRegister : Prop :=
  ∀ (v : Variant) (c : CoreState v), c.wasReset = true → c.pins.rst = false → c.regs.ctl.busy = false →
    ¬ (c.regs.ctl = .sqzOut ∧ c.pins.outReady = true) → ¬ (c.regs.ctl.accepts = true ∧ c.pins.cmdValid = true) →
    step ⟨v, c⟩ = .next ⟨v, c.tick⟩ ∧ c.tick.regs = c.regs ∧
    (c.regs.ctl = .sqzOut → (c.tick.portsAt false).outData = (c.portsAt false).outData)

/-- Rules R51, R96, R144, U8: where no command can be transferred, the command inputs have no effect; outside `SQZ_OUT`
`out_ready` has none. -/
def Obligations.UnsampledInputsHaveNoEffect : Prop :=
  ∀ (v : Variant) (c : CoreState v) (p q : Pins v), p.rst = q.rst →
    (p.outReady = q.outReady → ((p.cmdValid = false ∧ q.cmdValid = false) ∨ c.regs.ctl.accepts = false) →
      step ⟨v, c.withPins p⟩ = step ⟨v, c.withPins q⟩) ∧
    (c.regs.ctl ≠ .sqzOut → step ⟨v, c.withPins p⟩ = step ⟨v, c.withPins { p with outReady := q.outReady }⟩)

/-! ## The commands -/

/-- Rule R100: `INIT` clears every register and is accepted in every state with `cmd_ready = 1`. -/
def Obligations.InitClearsEveryRegister : Prop :=
  ∀ (v : Variant) (c : CoreState v) (len : LenWord) (data : Block),
    (c.regs.ctl = .init ∨ c.regs.ctl = .absWait ∨ c.regs.ctl = .done ∨ c.regs.ctl = .error) →
    exec (.init len data) ⟨v, c⟩ = .next ⟨v, { c with regs :=
      { S := 0#v.b, lfsr := ctr v 0, rnd := 0#v.w, nout := 0#5, ctl := .init, err := .none } }⟩

/-- Rule R101: `ABSORB` exclusive-ors its block into the rate and starts a permutation; `SEQ` in `DONE`, no effect in
`ERROR`. -/
def Obligations.AbsorbXorsTheBlockAndStartsAPermutation : Prop :=
  ∀ (v : Variant) (c : CoreState v) (len : LenWord) (data : Block),
    ((c.regs.ctl = .init ∨ c.regs.ctl = .absWait) →
      exec (.absorb len data) ⟨v, c⟩ = .next ⟨v, { c with regs := { c.regs with
        S := c.regs.S ^^^ (data.setWidth v.r).setWidth v.b, lfsr := ctr v 0, rnd := 0#v.w, ctl := .absPerm } }⟩) ∧
    (c.regs.ctl = .done →
      exec (.absorb len data) ⟨v, c⟩ = .next ⟨v, { c with regs := { c.regs with err := .seq, ctl := .error } }⟩) ∧
    (c.regs.ctl = .error → exec (.absorb len data) ⟨v, c⟩ = .next ⟨v, c⟩)

/-- Rule R102: `FINAL` with `len < r` exclusive-ors the padded block into the rate and starts the last permutation of the
absorption; `LEN` if `len >= r`; `SEQ` in `DONE`, no effect in `ERROR`. -/
def Obligations.FinalPadsAbsorbsAndStartsAPermutation : Prop :=
  ∀ (v : Variant) (c : CoreState v) (len : LenWord) (data : Block),
    ((c.regs.ctl = .init ∨ c.regs.ctl = .absWait) → len.toNat ≤ v.r - 1 →
      exec (.final len data) ⟨v, c⟩ = .next ⟨v, { c with regs := { c.regs with
        S := c.regs.S ^^^ (padBlock c.order (data.setWidth v.r) len.toNat).setWidth v.b,
        lfsr := ctr v 0, rnd := 0#v.w, ctl := .finPerm } }⟩) ∧
    ((c.regs.ctl = .init ∨ c.regs.ctl = .absWait) → v.r ≤ len.toNat →
      exec (.final len data) ⟨v, c⟩ = .next ⟨v, { c with regs := { c.regs with err := .len, ctl := .error } }⟩) ∧
    (c.regs.ctl = .done →
      exec (.final len data) ⟨v, c⟩ = .next ⟨v, { c with regs := { c.regs with err := .seq, ctl := .error } }⟩) ∧
    (c.regs.ctl = .error → exec (.final len data) ⟨v, c⟩ = .next ⟨v, c⟩)

/-- Rule R124: the reserved code raises `BADCMD` in `INIT`, `ABS_WAIT` and `DONE`, whatever its operands; in `ERROR` it has
no effect (rule R128). -/
def Obligations.ReservedCodeRaisesBadCommand : Prop :=
  ∀ (v : Variant) (c : CoreState v) (len : LenWord) (data : Block),
    ((c.regs.ctl = .init ∨ c.regs.ctl = .absWait ∨ c.regs.ctl = .done) →
      exec (.rsv len data) ⟨v, c⟩ = .next ⟨v, { c with regs := { c.regs with err := .badcmd, ctl := .error } }⟩) ∧
    (c.regs.ctl = .error → exec (.rsv len data) ⟨v, c⟩ = .next ⟨v, c⟩)

/-- Rule R129: the error a command raises, in the order of rule R99. -/
def Obligations.ErrorPriority : Prop :=
  ∀ (v : Variant) (c : CoreState v) (i : Instr), c.regs.ctl.accepts = true →
    ∃ d : CoreState v, exec i ⟨v, c⟩ = .next ⟨v, d⟩ ∧
      (i.op = 0b00#2 → d.regs.err = .none ∧ d.regs.ctl = .init) ∧
      (i.op ≠ 0b00#2 → c.regs.ctl = .error → d = c) ∧
      (i.op = 0b11#2 → c.regs.ctl ≠ .error → d.regs.err = .badcmd ∧ d.regs.ctl = .error) ∧
      (i.op = 0b01#2 ∨ i.op = 0b10#2 → c.regs.ctl = .done → d.regs.err = .seq ∧ d.regs.ctl = .error) ∧
      (i.op = 0b10#2 → v.r ≤ i.len.toNat → c.regs.ctl = .init ∨ c.regs.ctl = .absWait →
        d.regs.err = .len ∧ d.regs.ctl = .error) ∧
      (i.op = 0b01#2 ∨ (i.op = 0b10#2 ∧ i.len.toNat < v.r) → c.regs.ctl = .init ∨ c.regs.ctl = .absWait →
        d.regs.err = c.regs.err ∧ d.regs.ctl.busy = true)

/-- Rules R127, R130: a command that leaves the core in `ERROR` has changed at most `err` and `ctl`. -/
def Obligations.ErrorsArePrecise : Prop :=
  ∀ (v : Variant) (c d : CoreState v) (i : Instr), exec i ⟨v, c⟩ = .next ⟨v, d⟩ → d.regs.ctl = .error →
    d = { c with regs := { c.regs with err := d.regs.err, ctl := .error } }

/-- The model's reading of rules R51 and R96 for the dispatch itself (log 8): where `cmd_ready = 0` no command has any
effect. -/
def Obligations.CommandsNeedReady : Prop :=
  ∀ (v : Variant) (c : CoreState v) (i : Instr),
    (c.regs.ctl = .absPerm ∨ c.regs.ctl = .finPerm ∨ c.regs.ctl = .sqzOut ∨ c.regs.ctl = .sqzPerm) →
    exec i ⟨v, c⟩ = .next ⟨v, c⟩

/-- Rules R54, R55, R90, U7: the operand bits a command ignores change nothing. -/
def Obligations.IgnoredOperandBitsChangeNothing : Prop :=
  ∀ (v : Variant) (c : CoreState v) (len len' : LenWord) (data data' : Block),
    exec (.init len data) ⟨v, c⟩ = exec (.init len' data') ⟨v, c⟩ ∧
    exec (.rsv len data) ⟨v, c⟩ = exec (.rsv len' data') ⟨v, c⟩ ∧
    exec (.absorb len data) ⟨v, c⟩ = exec (.absorb len' data) ⟨v, c⟩ ∧
    ((∀ t < len.toNat, data.getLsbD (pos c.order t) = data'.getLsbD (pos c.order t)) →
      exec (.final len data) ⟨v, c⟩ = exec (.final len data') ⟨v, c⟩)

/-- The frame of the commands (rules R19, R32, R127): each answers a next state; none touches the build, the host's inputs
or the cycle count; only `INIT` writes `nout` or a capacity bit; the reserved code writes nothing but `err` and `ctl`, and
no command but a rejected one and `INIT` writes `err`. -/
def Obligations.CommandFrame : Prop :=
  ∀ (v : Variant) (c : CoreState v) (i : Instr), ∃ d : CoreState v, exec i ⟨v, c⟩ = .next ⟨v, d⟩ ∧
    d.order = c.order ∧ d.wasReset = c.wasReset ∧ d.host = c.host ∧ d.cycle = c.cycle ∧
    (i.op ≠ 0b00#2 → d.regs.nout = c.regs.nout ∧
      (∀ j, v.r ≤ j → d.regs.S.getLsbD j = c.regs.S.getLsbD j) ∧
      (d.regs.err ≠ c.regs.err → d.regs.ctl = .error)) ∧
    (i.op = 0b11#2 → d.regs.S = c.regs.S ∧ d.regs.lfsr = c.regs.lfsr ∧ d.regs.rnd = c.regs.rnd)

/-- Rules R21, R40: byte `j` of the block of an accepted `ABSORB` goes into state byte `j`; the other state bytes stay. -/
def Obligations.AbsorbByteOrder : Prop :=
  ∀ (v : Variant) (c : CoreState v) (len : LenWord) (data : Block), (c.regs.ctl = .init ∨ c.regs.ctl = .absWait) →
    ∃ d : CoreState v, exec (.absorb len data) ⟨v, c⟩ = .next ⟨v, d⟩ ∧
      (∀ j < v.r / 8, byteOf d.regs.S j = byteOf c.regs.S j ^^^ byteOf data j) ∧
      (∀ j, v.r / 8 ≤ j → byteOf d.regs.S j = byteOf c.regs.S j)

/-! ## Errors over time -/

/-- Rules R128, R131: the machine leaves `ERROR` only by a reset edge or by a transferred `INIT`, and then every register
has its reset value. -/
def Obligations.OnlyInitOrResetLeavesError : Prop :=
  ∀ (v : Variant) (c d : CoreState v), c.regs.ctl = .error → step ⟨v, c⟩ = .next ⟨v, d⟩ → d.regs.ctl ≠ .error →
    (c.pins.rst = true ∨ ∃ len data, c.commandTaken = some (.init len data)) ∧ d.regs = Regs.reset v

/-- Rule R128: in `ERROR`, through any number of edges without reset and without a transferred `INIT`, no register changes
and no block is handed out: the first error is kept. -/
def Obligations.ErrorIsSticky : Prop :=
  ∀ (v : Variant) (c : CoreState v) (k : Nat), c.runs k → c.regs.ctl = .error →
    (∀ i ∈ commandsTaken k ⟨v, c⟩, i.op ≠ 0b00#2) →
    run k ⟨v, c⟩ = .next ⟨v, c.elapse k⟩ ∧ blocksTaken k ⟨v, c⟩ = []

/-! ## The datapath -/

/-- Rule R64: nibble `k` of the substituted state is the `SBOX` image of nibble `k`. -/
def Obligations.SboxLayerActsOnEveryNibble : Prop :=
  ∀ (v : Variant) (S : BitVec v.b) (k : Nat), k < v.nn → nibble (sboxLayer S) k = sbox (nibble S k)

/-- Rule R65: the inverse table of the S-box, no fixed point, and the layer a bijection. -/
def Obligations.SboxLayerIsBijective : Prop :=
  (∀ x : Nibble, [0x3#4, 0x5#4, 0x4#4, 0xE#4, 0x6#4, 0xB#4, 0xF#4, 0x8#4, 0xA#4, 0xC#4, 0x9#4, 0x2#4, 0xD#4, 0x1#4, 0x0#4,
    0x7#4].getD (sbox x).toNat 0#4 = x ∧ sbox x ≠ x) ∧
  ∀ v : Variant, Function.Bijective (sboxLayer : BitVec v.b → BitVec v.b)

/-- Rules R68, R69: bit `j` of the state goes to position `j·b/4 mod (b-1)`, and bit `b-1` stays; bit 0 stays, and so do
the all-zero and the all-one state. -/
def Obligations.PLayerMovesEveryBit : Prop :=
  ∀ (v : Variant) (S : BitVec v.b),
    (∀ j ≤ v.b - 2, (pLayer S).getLsbD (j * (v.b / 4) % (v.b - 1)) = S.getLsbD j) ∧
    (pLayer S).getLsbD (v.b - 1) = S.getLsbD (v.b - 1) ∧ (pLayer S).getLsbD 0 = S.getLsbD 0 ∧
    pLayer (0#v.b) = 0#v.b ∧ pLayer (BitVec.allOnes v.b) = BitVec.allOnes v.b

/-- Rule R69: the diffusion layer preserves the number of set bits. -/
def Obligations.PLayerPreservesTheBitCount : Prop :=
  ∀ (v : Variant) (S : BitVec v.b),
    (List.range v.b).countP (fun k => (pLayer S).getLsbD k) = (List.range v.b).countP (fun k => S.getLsbD k)

/-- Rule R70: bit `i` of nibble `q` goes to position `q` of quarter `i`, and the inverse wiring gathers bit `4k mod (b-1)`. -/
def Obligations.PLayerInverseWiring : Prop :=
  ∀ v : Variant,
    (∀ q < v.nn, ∀ i < 4, pBox v.b (4 * q + i) = i * v.nn + q) ∧
    ∀ (S : BitVec v.b) (k : Nat), k ≤ v.b - 2 → (pLayer S).getLsbD k = S.getLsbD (4 * k % (v.b - 1))

/-- Rule R74: the LFSR shifts towards the most significant bit and feeds the exclusive-or of the variant's taps into bit 0;
the zero value is stuck. -/
def Obligations.LfsrShiftsAndFeedsBack : Prop :=
  (∀ (v : Variant) (c : BitVec v.w) (i : Nat), i + 1 < v.w → (lfsrNext v c).getLsbD (i + 1) = c.getLsbD i) ∧
  (∀ c : BitVec (Variant.w .s88), (lfsrNext .s88 c).getLsbD 0 = (c.getLsbD 5 ^^ c.getLsbD 4)) ∧
  (∀ c : BitVec (Variant.w .s128), (lfsrNext .s128 c).getLsbD 0 = (c.getLsbD 6 ^^ c.getLsbD 5)) ∧
  (∀ c : BitVec (Variant.w .s160), (lfsrNext .s160 c).getLsbD 0 = (c.getLsbD 6 ^^ c.getLsbD 5)) ∧
  (∀ c : BitVec (Variant.w .s224), (lfsrNext .s224 c).getLsbD 0 = (c.getLsbD 6 ^^ c.getLsbD 5)) ∧
  (∀ c : BitVec (Variant.w .s256), (lfsrNext .s256 c).getLsbD 0 =
    (c.getLsbD 7 ^^ c.getLsbD 3 ^^ c.getLsbD 2 ^^ c.getLsbD 1)) ∧
  (∀ v : Variant, lfsrNext v (0#v.w) = 0#v.w)

/-- Rule R79: the counter values of one permutation are pairwise distinct and nonzero, the last is `2^(w-1) - 1`, and the
value after it is all ones. -/
def Obligations.CounterValuesAreDistinct : Prop :=
  ∀ v : Variant,
    (∀ t u : Nat, t < u → u < v.rounds → ctr v t ≠ ctr v u) ∧ (∀ t : Nat, t < v.rounds → ctr v t ≠ 0#v.w) ∧
    (ctr v (v.rounds - 1)).toNat = 2 ^ (v.w - 1) - 1 ∧ ctr v v.rounds = BitVec.allOnes v.w

/-- Rules R76, R78: counter bit `k` lands on state bits `k` and `b-1-k`, and no other bit changes. -/
def Obligations.AddCounterTouchesBothEnds : Prop :=
  ∀ (v : Variant) (S : BitVec v.b) (c : BitVec v.w),
    (∀ k < v.w, (rev c).getLsbD k = c.getLsbD (v.w - 1 - k) ∧
      (addCounter S c).getLsbD k = (S.getLsbD k ^^ c.getLsbD k) ∧
      (addCounter S c).getLsbD (v.b - 1 - k) = (S.getLsbD (v.b - 1 - k) ^^ c.getLsbD k)) ∧
    ∀ k, v.w ≤ k → k < v.b - v.w → (addCounter S c).getLsbD k = S.getLsbD k

/-- Rule R82: a round is a bijection of the state for every counter value. -/
def Obligations.RoundIsBijective : Prop :=
  ∀ (v : Variant) (c : BitVec v.w), Function.Bijective (fun S : BitVec v.b => permRound S c)

/-- Rule R83: the permutation is a bijection of the state. -/
def Obligations.PermIsBijective : Prop :=
  ∀ v : Variant, Function.Bijective (perm v)

/-- Rule R89: `pos` sends the stream bits of a block one to one onto its bits, each inside its byte. -/
def Obligations.PosIsABijectionInsideBytes : Prop :=
  ∀ (v : Variant) (o : BitOrder),
    (∀ t < v.r, pos o t < v.r ∧ pos o t / 8 = t / 8 ∧ (pos .msbFirst t = 8 * (t / 8) + (7 - t % 8)) ∧
      pos .lsbFirst t = t) ∧
    (∀ t < v.r, ∀ u < v.r, pos o t = pos o u → t = u) ∧ ∀ j < v.r, ∃ t < v.r, pos o t = j

/-- Rule R90: the stream bits of the padded block are the first `k` of `d`, then a `1`, then zeros. -/
def Obligations.PadBlockStreamBits : Prop :=
  ∀ (v : Variant) (o : BitOrder) (d : BitVec v.r) (k : Nat), k < v.r →
    ∀ t < v.r, (padBlock o d k).getLsbD (pos o t) = if t < k then d.getLsbD (pos o t) else decide (t = k)

/-- Rules R92, R93: after `q` whole bytes the padded block keeps them, then has the padding byte (`0x80` or `0x01` by
`BIT_ORDER`), then zero bytes; `q = 0` is the extra block. -/
def Obligations.PadBlockAfterWholeBytes : Prop :=
  ∀ (v : Variant) (o : BitOrder) (d : BitVec v.r) (q : Nat), q < v.r / 8 → ∀ j < v.r / 8,
    byteOf (padBlock o d (8 * q)) j =
      if j < q then byteOf d j
      else if j = q then (match o with | .msbFirst => 0x80#8 | .lsbFirst => 0x01#8)
      else 0x00#8

/-- Rule R91: the padded message has `⌊L/r⌋ + 1` blocks; all but the last hold message bits only, and the last is the
padded block that `FINAL` builds from the remaining `L mod r` bits, whatever stands in its ignored bits. -/
def Obligations.PaddedMessageBlocks : Prop :=
  ∀ (v : Variant) (o : BitOrder) (M : List Byte) (L : Nat),
    (pad o v.r M L).length = (L / v.r + 1) * v.r ∧
    (∀ i < L / v.r, ∀ t < v.r, (streamBlock o v.r (pad o v.r M L) i).getLsbD (pos o t) = messageBit o M (i * v.r + t)) ∧
    ∀ d : BitVec v.r, (∀ t < L % v.r, d.getLsbD (pos o t) = messageBit o M (L / v.r * v.r + t)) →
      streamBlock o v.r (pad o v.r M L) (L / v.r) = padBlock o d (L % v.r)

/-- Rule R94: padding is injective, on messages as bit streams. -/
def Obligations.PaddingIsInjective : Prop :=
  ∀ (v : Variant) (o : BitOrder) (M M' : List Byte) (L L' : Nat), pad o v.r M L = pad o v.r M' L' →
    L = L' ∧ ∀ t < L, messageBit o M t = messageBit o M' t

/-! ## The permutation engine over its edges -/

/-- Rules R85, R86: the round step at an edge at which `busy` holds; no transfer occurs there. -/
def Obligations.BusyEdgeIsOneRound : Prop :=
  ∀ (v : Variant) (c : CoreState v), c.wasReset = true → c.pins.rst = false → c.regs.ctl.busy = true →
    c.commandTaken = none ∧ c.blockTaken = none ∧
    step ⟨v, c⟩ = .next ⟨v, { c.tick with regs :=
      if c.regs.rnd.toNat = v.rounds - 1 then
        { c.regs with
          S := permRound c.regs.S c.regs.lfsr, lfsr := lfsrNext v c.regs.lfsr, rnd := 0#v.w, ctl := c.regs.ctl.succ }
      else
        { c.regs with
          S := permRound c.regs.S c.regs.lfsr, lfsr := lfsrNext v c.regs.lfsr, rnd := c.regs.rnd + 1#v.w } }⟩

/-- Rule R86: where each permutation leads when its last round is done, with `lfsr` left at `Ctr(R)`. The premise is the
invariant of rule R37. -/
def Obligations.LastRoundCompletes : Prop :=
  ∀ (v : Variant) (c : CoreState v), c.wasReset = true → c.pins.rst = false → c.regs.Inv →
    c.regs.rnd.toNat = v.rounds - 1 →
    ∃ d : CoreState v, d.regs.rnd = 0#v.w ∧ d.regs.lfsr = ctr v v.rounds ∧
      d.regs.S = permRound c.regs.S (ctr v (v.rounds - 1)) ∧
      (c.regs.ctl = .absPerm → step ⟨v, c⟩ = .next ⟨v, d⟩ ∧ d.regs.ctl = .absWait) ∧
      (c.regs.ctl = .finPerm → step ⟨v, c⟩ = .next ⟨v, d⟩ ∧ d.regs.ctl = .sqzOut) ∧
      (c.regs.ctl = .sqzPerm → step ⟨v, c⟩ = .next ⟨v, d⟩ ∧ d.regs.ctl = .sqzOut)

/-- Rule R87: a permutation just started is busy, with no transfer, for exactly `R` edges, and leaves `Perm` of the state it
started with. -/
def Obligations.PermutationTakesRoundsManyEdges : Prop :=
  ∀ (v : Variant) (c : CoreState v), c.runs v.rounds → c.regs.ctl.busy = true → c.regs.rnd = 0#v.w →
    c.regs.lfsr = ctr v 0 →
    (∀ k < v.rounds, ∃ d : CoreState v, run k ⟨v, c⟩ = .next ⟨v, d⟩ ∧ d.regs.ctl.busy = true ∧
      d.commandTaken = none ∧ d.blockTaken = none) ∧
    run v.rounds ⟨v, c⟩ = .next ⟨v, { c.elapse v.rounds with regs := { c.regs with
      S := perm v c.regs.S, lfsr := ctr v v.rounds, rnd := 0#v.w, ctl := c.regs.ctl.succ } }⟩

/-- Rule R109: an accepted `ABSORB` of `d` leaves `Perm(X ⊕ zext_b(d))` in `ABS_WAIT`, `R` edges after its transfer. -/
def Obligations.AbsorbTransaction : Prop :=
  ∀ (v : Variant) (c : CoreState v) (len : LenWord) (data : Block), c.runs (1 + v.rounds) →
    (c.regs.ctl = .init ∨ c.regs.ctl = .absWait) → c.commandTaken = some (.absorb len data) →
    run (1 + v.rounds) ⟨v, c⟩ = .next ⟨v, { c.elapse (1 + v.rounds) with regs := { c.regs with
      S := perm v (c.regs.S ^^^ (data.setWidth v.r).setWidth v.b), lfsr := ctr v v.rounds, rnd := 0#v.w,
      ctl := .absWait } }⟩

/-- Rule R110: an accepted `FINAL` of `(k, d)` leaves `Perm(X ⊕ zext_b(PadBlock(d, k)))` in `SQZ_OUT`, `R` edges after its
transfer. -/
def Obligations.FinalTransaction : Prop :=
  ∀ (v : Variant) (c : CoreState v) (len : LenWord) (data : Block), c.runs (1 + v.rounds) →
    (c.regs.ctl = .init ∨ c.regs.ctl = .absWait) → len.toNat ≤ v.r - 1 → c.commandTaken = some (.final len data) →
    run (1 + v.rounds) ⟨v, c⟩ = .next ⟨v, { c.elapse (1 + v.rounds) with regs := { c.regs with
      S := perm v (c.regs.S ^^^ (padBlock c.order (data.setWidth v.r) len.toNat).setWidth v.b),
      lfsr := ctr v v.rounds, rnd := 0#v.w, ctl := .sqzOut } }⟩

/-- Rules R5, R149: every transferred command, and every output transfer, with the permutation it starts as one step, is
what the clocked machine reaches after the edges of rule R149. -/
def Obligations.TransactionsRefineEdges : Prop :=
  (∀ (v : Variant) (c : CoreState v) (i : Instr), c.wasReset = true → c.commandTaken = some i →
    ∃ d e : CoreState v, exec i ⟨v, c⟩ = .next ⟨v, d⟩ ∧ transact i ⟨v, c⟩ = .next ⟨v, e⟩ ∧
      (c.runs d.transferEdges → run d.transferEdges ⟨v, c⟩ = .next ⟨v, e.elapse d.transferEdges⟩)) ∧
  (∀ (v : Variant) (c : CoreState v) (x : Block), c.wasReset = true → c.blockTaken = some x →
    c.runs c.readEdge.transferEdges →
    run c.readEdge.transferEdges ⟨v, c⟩ = .next ⟨v, (readTransact c).elapse c.readEdge.transferEdges⟩)

/-! ## The squeeze and the hash -/

/-- Rule R103: an output transfer hands over the rate; the last block ends the hash with no further permutation, any other
starts one on the state as it is. -/
def Obligations.OutputTransferHandsOverTheRate : Prop :=
  ∀ (v : Variant) (c : CoreState v), c.wasReset = true → c.pins.rst = false → c.regs.ctl = .sqzOut →
    c.pins.outReady = true →
    c.blockTaken = some ((c.regs.S.setWidth v.r).setWidth 16) ∧
    (c.regs.nout.toNat = v.nb - 1 → c.ports.outLast = true ∧ step ⟨v, c⟩ = .next ⟨v, { c.tick with regs :=
      { c.regs with nout := c.regs.nout + 1#5, ctl := .done } }⟩) ∧
    (c.regs.nout.toNat ≠ v.nb - 1 → c.ports.outLast = false ∧ step ⟨v, c⟩ = .next ⟨v, { c.tick with regs :=
      { c.regs with nout := c.regs.nout + 1#5, lfsr := ctr v 0, rnd := 0#v.w, ctl := .sqzPerm } }⟩)

/-- Rule R111: from the first presentation of a hash, output block `k` is `Perm^k(Y)[r-1:0]`, whatever the host's timing. -/
def Obligations.SqueezedBlocks : Prop :=
  ∀ (v : Variant) (c : CoreState v) (n k : Nat) (x : Block), c.runs n → c.regs.ctl = .sqzOut → c.regs.nout = 0#5 →
    k < v.nb → (blocksTaken n ⟨v, c⟩)[k]? = some x →
    x = ((permIter v k c.regs.S).setWidth v.r).setWidth 16

/-- Rule R117: a run without reset, from `ctl = INIT` with `S = 0`, whose transferred commands are those of
`HashCommands(M, L)` and that has handed out `NB` blocks, has handed out exactly the blocks of `Hash(M, L)` and ends in
`DONE` with `err = NONE`, whatever idle edges the host inserts. -/
def Obligations.HashRunYieldsTheDigest : Prop :=
  ∀ (v : Variant) (c : CoreState v) (M : List Byte) (L n : Nat), c.runs n → c.fresh →
    IsHashCommands v c.order M L (commandsTaken n ⟨v, c⟩) → (blocksTaken n ⟨v, c⟩).length = v.nb →
    blocksTaken n ⟨v, c⟩ = hashBlocks v c.order M L ∧
    ∃ d : CoreState v, run n ⟨v, c⟩ = .next ⟨v, d⟩ ∧ d.regs.ctl = .done ∧ d.regs.err = .none

/-- Rules R62, R117, R150: the eager host of rule R150, playing `HASH M, L` from `ctl = INIT` with `S = 0`, has its digest
after exactly `(⌊L/r⌋ + NB)·(R + 1) + 1` edges, and not before. How it plays a line is the model's choice (log 16). -/
def Obligations.EagerHashTakesTheStatedEdges : Prop :=
  ∀ (v : Variant) (c : CoreState v) (M : List Byte) (L : Nat), c.fresh →
    let edges := (L / v.r + v.nb) * (v.rounds + 1) + 1
    let start : Played := { lines := hashLines v c.order M L, state := ⟨v, c⟩, blocks := [] }
    (∃ d : CoreState v, play edges start = .next { lines := [], state := ⟨v, d⟩, blocks := hashBlocks v c.order M L } ∧
      d.regs.ctl = .done ∧ d.regs.err = .none ∧ d.cycle = c.cycle + edges) ∧
    ∀ k < edges, ∃ q : Played, play k start = .next q ∧ q.lines ≠ []

/-! ## The output ports -/

/-- Rule R140: the outputs in every cycle with `rst = 1`, also before the first reset edge. -/
def Obligations.PortsDuringReset : Prop :=
  ∀ (v : Variant) (c : CoreState v), c.pins.rst = true →
    c.ports.cmdReady = false ∧ c.ports.outValid = false ∧ c.ports.outLast = false ∧ c.ports.stCtl = 0#3 ∧
    c.ports.stBusy = false ∧ c.ports.stErr = 0#2

/-- Rules R25, R27, R28, R96, R98, R122: the handshake and status outputs with `rst = 0`; `cmd_ready` and `out_valid` are
never 1 together, so no edge has both transfers (rule R97). -/
def Obligations.PortsInOperation : Prop :=
  ∀ (v : Variant) (c : CoreState v), c.wasReset = true → c.pins.rst = false →
    (c.ports.cmdReady = true ↔
      c.regs.ctl = .init ∨ c.regs.ctl = .absWait ∨ c.regs.ctl = .done ∨ c.regs.ctl = .error) ∧
    (c.ports.outValid = true ↔ c.regs.ctl = .sqzOut) ∧
    (c.ports.outLast = true ↔ c.regs.ctl = .sqzOut ∧ c.regs.nout.toNat = v.nb - 1) ∧
    (c.ports.outValid = true → c.ports.outData = (c.regs.S.setWidth v.r).setWidth 16) ∧
    (c.ports.stBusy = true ↔ c.regs.ctl = .absPerm ∨ c.regs.ctl = .finPerm ∨ c.regs.ctl = .sqzPerm) ∧
    c.ports.stCtl = (match c.regs.ctl with
      | .init => 0#3 | .absWait => 1#3 | .absPerm => 2#3 | .finPerm => 3#3
      | .sqzOut => 4#3 | .sqzPerm => 5#3 | .done => 6#3 | .error => 7#3) ∧
    c.ports.stErr = (match c.regs.err with | .none => 0#2 | .badcmd => 1#2 | .seq => 2#2 | .len => 3#2) ∧
    ¬ (c.cmdXfer = true ∧ c.outXfer = true)

/-- Rules R16, R148: no output depends on an input other than `rst`. -/
def Obligations.OutputsDependOnRstAlone : Prop :=
  ∀ (v : Variant) (c : CoreState v) (p q : Pins v), p.rst = q.rst → (c.withPins p).ports = (c.withPins q).ports

/-! ## The whole machine -/

/-- Rule R37: every step keeps the invariant of the registers. -/
def Obligations.StepKeepsTheInvariant : Prop :=
  ∀ s t : State, s.Inv → step s = .next t → t.Inv

/-- Rules R35, R37: the registers meet the invariant after reset, in every build. -/
def Obligations.ResetMeetsTheInvariant : Prop :=
  State.reset.Inv ∧ ∀ (v : Variant) (o : BitOrder), (CoreState.reset v o).Inv ∧
    (CoreState.reset v o).regs = { S := 0#v.b, lfsr := ctr v 0, rnd := 0#v.w, nout := 0#5, ctl := .init, err := .none }

/-- Rule R95: `ctl` moves only as the table gives. -/
def Obligations.CtlMovesByTheTable : Prop :=
  ∀ (v : Variant) (c d : CoreState v), step ⟨v, c⟩ = .next ⟨v, d⟩ → CtlMove c d

/-- Rules R19, R32: what writes each register at an edge without reset. -/
def Obligations.RegisterWriters : Prop :=
  ∀ (v : Variant) (c d : CoreState v), step ⟨v, c⟩ = .next ⟨v, d⟩ → c.pins.rst = false →
    (d.regs.S ≠ c.regs.S → c.regs.ctl.busy = true ∨ ∃ i, c.commandTaken = some i ∧ i.op ≠ 0b11#2) ∧
    (d.regs.lfsr ≠ c.regs.lfsr → c.regs.ctl.busy = true ∨ c.blockTaken ≠ none ∨
      ∃ i, c.commandTaken = some i ∧ i.op ≠ 0b11#2) ∧
    (d.regs.rnd ≠ c.regs.rnd → c.regs.ctl.busy = true ∨ c.blockTaken ≠ none ∨
      ∃ i, c.commandTaken = some i ∧ i.op ≠ 0b11#2) ∧
    (d.regs.nout ≠ c.regs.nout → c.blockTaken ≠ none ∨ ∃ i, c.commandTaken = some i ∧ i.op = 0b00#2) ∧
    (d.regs.ctl ≠ c.regs.ctl → c.regs.ctl.busy = true ∨ c.blockTaken ≠ none ∨ c.commandTaken ≠ none) ∧
    (d.regs.err ≠ c.regs.err → ∃ i, c.commandTaken = some i ∧ (i.op = 0b00#2 ∨ d.regs.ctl = .error)) ∧
    (∀ j, v.r ≤ j → d.regs.S.getLsbD j ≠ c.regs.S.getLsbD j →
      c.regs.ctl.busy = true ∨ ∃ i, c.commandTaken = some i ∧ i.op = 0b00#2)

/-- Rules R6, R10, R30: no step changes the variant or the bit order. That the build stands in State is the model's choice
(log 1), and so are the two clauses about the model's own fields: every step passes one edge (the counter of log 6), and
after every step a reset edge has happened (the mark of log 5). -/
def Obligations.NoStepChangesTheBuild : Prop :=
  ∀ s t : State, step s = .next t →
    t.variant = s.variant ∧ t.core.order = s.core.order ∧ t.core.cycle = s.core.cycle + 1 ∧ t.core.wasReset = true

/-- Rules R7, R9, R132: no machine is built for a parameter set that breaks a condition of rule R9, and one is built for
each of the five variants. -/
def Obligations.IllegalParameterSetsBuildNoMachine : Prop :=
  ∀ (o : BitOrder) (g : (v : Variant) → Regs v),
    (∀ p : ParamSet, elaborate p o g = .refused .illegalParameterSet ↔
      ¬ (8 ∣ p.b ∧ 8 ∣ p.r ∧ (∃ k, p.r = 2 ^ k) ∧ 0 < p.r ∧ p.r < p.b ∧ p.r ∣ p.b ∧ p.r ∣ p.n ∧ 1 ≤ p.rounds ∧
        1 ≤ p.w ∧ p.w ≤ 8 ∧ p.lfsrInit ≠ 0)) ∧
    ∀ v : Variant, elaborate v.params o g = .next ⟨v, CoreState.powerUp o (g v) []⟩ ∧ v.params.r + v.params.c = v.params.b

/-- Rules R8, R37: the derived quantities of each variant, and the register widths hold every value their counters take. -/
def Obligations.WidthsHoldTheCounters : Prop :=
  (∀ v : Variant, v.nb * v.r = v.n ∧ 2 ^ v.lw = v.r ∧ v.nn * 4 = v.b ∧ v.ny * 8 = v.b ∧ v.rounds ≤ 2 ^ v.w ∧ v.nb < 2 ^ 5) ∧
  (∀ (v : Variant) (o : BitOrder) (M : List Byte) (L : Nat), 8 * (spongentHash v o M L).length = v.n)
end

