-- ==== Sys2Proof/Laws/Bits.lean ====
section
/-! SUPPORT. What the bit-field operations do to one bit. -/

namespace Sys2Proof.Machine

variable {m : Nat}

/-- A bit of a scattered value is set exactly where some written position holds a set source bit. -/
theorem getLsbD_scatter (pos : Nat → Nat) (f : Nat → Bool) (n i : Nat) :
    (scatter m pos f n).getLsbD i = true ↔ i < m ∧ ∃ t < n, pos t = i ∧ f t = true := by
  induction n with
  | zero => simp [scatter]
  | succ n ih =>
    have last : (if f n then BitVec.twoPow m (pos n) else 0#m).getLsbD i = true ↔ i < m ∧ pos n = i ∧ f n = true := by
      cases f n <;> simp [BitVec.getLsbD_twoPow]
      rintro rfl
      rfl
    simp only [scatter, BitVec.getLsbD_or, Bool.or_eq_true, ih, last]
    constructor
    · rintro (⟨hi, t, ht, e⟩ | ⟨hi, e⟩)
      · exact ⟨hi, t, by omega, e⟩
      · exact ⟨hi, n, by omega, e⟩
    · rintro ⟨hi, t, ht, e⟩
      by_cases h : t = n
      · exact .inr ⟨hi, h ▸ e⟩
      · exact .inl ⟨hi, t, by omega, e⟩

/-- Where `pos` sends no two source bits to one place, the place it sends bit `t` to holds bit `t`. -/
theorem getLsbD_scatter_of_injective {pos : Nat → Nat} {f : Nat → Bool} {n t : Nat}
    (inj : ∀ a < n, ∀ b < n, pos a = pos b → a = b) (ht : t < n) (hm : pos t < m) :
    (scatter m pos f n).getLsbD (pos t) = f t := by
  rw [Bool.eq_iff_iff, getLsbD_scatter]
  constructor
  · rintro ⟨_, a, ha, e, hf⟩
    exact inj a ha t ht e ▸ hf
  · exact fun h => ⟨hm, t, ht, rfl, h⟩

@[simp] theorem getLsbD_tabulate (f : Nat → Bool) (i : Nat) : (tabulate m f).getLsbD i = (decide (i < m) && f i) := by
  rw [Bool.eq_iff_iff, tabulate, getLsbD_scatter]
  simp only [id_eq, Bool.and_eq_true, decide_eq_true_eq]
  exact ⟨fun ⟨h, t, _, e, hf⟩ => ⟨h, e ▸ hf⟩, fun ⟨h, hf⟩ => ⟨h, i, h, rfl, hf⟩⟩

@[simp] theorem getLsbD_nibble (x : BitVec m) (k i : Nat) :
    (nibble x k).getLsbD i = (decide (i < 4) && x.getLsbD (4 * k + i)) := by simp [nibble]

@[simp] theorem getLsbD_byteOf (x : BitVec m) (j i : Nat) :
    (byteOf x j).getLsbD i = (decide (i < 8) && x.getLsbD (8 * j + i)) := by simp [byteOf]

end Sys2Proof.Machine
end

