-- ==== Sys2Proof/Laws/Params.lean ====
section
/-! SUPPORT. Numeric facts of the five variants (rules R7, R8), each by cases over the table. -/

namespace Sys2Proof

variable (v : Variant)

theorem Variant.r_pos : 0 < v.r := by cases v <;> decide
theorem Variant.r_lt_b : v.r < v.b := by cases v <;> decide
theorem Variant.r_le_16 : v.r ≤ 16 := by cases v <;> decide
theorem Variant.eight_dvd_r : 8 ∣ v.r := by cases v <;> decide
theorem Variant.eight_dvd_b : 8 ∣ v.b := by cases v <;> decide
theorem Variant.nn_mul_four : v.nn * 4 = v.b := by cases v <;> decide
theorem Variant.two_w_lt_b : 2 * v.w < v.b := by cases v <;> decide
theorem Variant.w_pos : 0 < v.w := by cases v <;> decide
theorem Variant.rounds_pos : 0 < v.rounds := by cases v <;> decide
theorem Variant.rounds_lt_two_pow_w : v.rounds < 2 ^ v.w := by cases v <;> decide
theorem Variant.nb_mul_r : v.nb * v.r = v.n := by cases v <;> decide
theorem Variant.ten_le_nb : 10 ≤ v.nb := by cases v <;> decide
theorem Variant.nb_le_16 : v.nb ≤ 16 := by cases v <;> decide
theorem Variant.two_pow_lw : 2 ^ v.lw = v.r := by cases v <;> decide
theorem Variant.lw_le_4 : v.lw ≤ 4 := by cases v <;> decide
theorem Variant.cww_eq : v.cww = v.lw + 3 + v.r := by cases v <;> decide

end Sys2Proof
end

