-- ==== Sys2Proof/Laws/Decode.lean ====
section
/-! SUPPORT. The command word bit by bit, and the fields read back from it (rule R52). -/

namespace Sys2Proof

variable {v : Variant}

/-- A bit of a packed command word. -/
theorem getLsbD_packWord (op : BitVec 2) (len : BitVec (v.lw + 1)) (data : BitVec v.r) (i : Nat) :
    (packWord op len data).getLsbD i =
      (op.getLsbD i || (decide (2 ≤ i) && len.getLsbD (i - 2)) || (decide (v.lw + 3 ≤ i) && data.getLsbD (i - (v.lw + 3)))) := by
  have hc := v.cww_eq
  have ho : op.getLsbD i = true → i < v.cww := fun h => by
    have := BitVec.lt_of_getLsbD h; omega
  have hl : 2 ≤ i → len.getLsbD (i - 2) = true → i < v.cww := fun _ h => by
    have := BitVec.lt_of_getLsbD h; omega
  have hd : v.lw + 3 ≤ i → data.getLsbD (i - (v.lw + 3)) = true → i < v.cww := fun _ h => by
    have := BitVec.lt_of_getLsbD h; omega
  rw [Bool.eq_iff_iff]
  simp only [packWord, BitVec.getLsbD_or, BitVec.getLsbD_shiftLeft, BitVec.getLsbD_setWidth, Bool.or_eq_true,
    Bool.and_eq_true, decide_eq_true_eq, Bool.not_eq_true', decide_eq_false_iff_not]
  constructor
  · rintro ((⟨_, h⟩ | ⟨⟨_, h⟩, _, h'⟩) | ⟨⟨_, h⟩, _, h'⟩)
    · exact .inl (.inl h)
    · exact .inl (.inr ⟨by omega, h'⟩)
    · exact .inr ⟨by omega, h'⟩
  · rintro ((h | ⟨h, h'⟩) | ⟨h, h'⟩)
    · exact .inl (.inl ⟨ho h, h⟩)
    · exact .inl (.inr ⟨⟨hl h h', by omega⟩, by have := hl h h'; omega, h'⟩)
    · exact .inr ⟨⟨hd h h', by omega⟩, by have := hd h h'; omega, h'⟩

@[simp] theorem opField_packWord (op : BitVec 2) (len : BitVec (v.lw + 1)) (data : BitVec v.r) :
    opField (packWord op len data) = op := by
  refine BitVec.eq_of_getLsbD_eq fun i hi => ?_
  have h1 : ¬ 2 ≤ i := by omega
  have h2 : ¬ v.lw + 3 ≤ i := by omega
  simp [opField, getLsbD_packWord, hi, h1, h2]

@[simp] theorem lenField_packWord (op : BitVec 2) (len : BitVec (v.lw + 1)) (data : BitVec v.r) :
    lenField (packWord op len data) = len := by
  refine BitVec.eq_of_getLsbD_eq fun i hi => ?_
  have h2 : ¬ v.lw + 3 ≤ 2 + i := by omega
  simp [lenField, getLsbD_packWord, hi, h2]

@[simp] theorem dataField_packWord (op : BitVec 2) (len : BitVec (v.lw + 1)) (data : BitVec v.r) :
    dataField (packWord op len data) = data := by
  refine BitVec.eq_of_getLsbD_eq fun i hi => ?_
  have h1 : op.getLsbD (v.lw + 3 + i) = false := BitVec.getLsbD_of_ge _ _ (by omega)
  have h2 : len.getLsbD (v.lw + 3 + i - 2) = false := BitVec.getLsbD_of_ge _ _ (by omega)
  simp [dataField, getLsbD_packWord, hi, h1, h2]

/-- The decoder by the value of `op`. -/
theorem decodeFields_op (i : Instr) : decodeFields i.op i.len i.data = i := by
  cases i <;> simp [decodeFields, Instr.op, Instr.len, Instr.data]

end Sys2Proof
end

