-- ==== Sys2Proof/Laws/PerInstr.lean ====
section
/-! SUPPORT. One lemma per command for the families that LAWS.json names. -/

namespace Sys2Proof.Laws.OpField

/-- The two low bits of a command's word are its row's match value, whatever its operands (rules R52, R53). -/
def Statement (i : Instr) : Prop :=
  ∀ v : Variant, opField (encode v i) = i.op

theorem init (len : LenWord) (data : Block) : Statement (.init len data) := fun _ => opField_packWord _ _ _
theorem absorb (len : LenWord) (data : Block) : Statement (.absorb len data) := fun _ => opField_packWord _ _ _
theorem final (len : LenWord) (data : Block) : Statement (.final len data) := fun _ => opField_packWord _ _ _
theorem rsv (len : LenWord) (data : Block) : Statement (.rsv len data) := fun _ => opField_packWord _ _ _

end Sys2Proof.Laws.OpField
end

