-- ==== Sys2Proof/Laws/Permutation.lean ====
section
/-! SUPPORT. What the datapath functions do to one bit, in the form later proofs cite. -/

namespace Sys2Proof.Machine

/-- A bit of the first `k` substituted nibbles. -/
theorem getLsbD_sboxNibbles {b : Nat} (S : BitVec b) (k i : Nat) :
    (sboxNibbles S k).getLsbD i = (decide (i < b) && decide (i / 4 < k) && (sbox (nibble S (i / 4))).getLsbD (i % 4)) := by
  induction k with
  | zero => simp [sboxNibbles]
  | succ k ih =>
    simp only [sboxNibbles, BitVec.getLsbD_or, ih, BitVec.getLsbD_shiftLeft, BitVec.getLsbD_setWidth]
    by_cases hb : i < b
    · rcases Nat.lt_trichotomy (i / 4) k with h | h | h
      · have h1 : i < 4 * k := by omega
        have h2 : i / 4 < k + 1 := by omega
        simp [hb, h, h1, h2]
      · subst h
        have e : i - 4 * (i / 4) = i % 4 := by omega
        have h1 : ¬ i < 4 * (i / 4) := by omega
        have h2 : i % 4 < b := by omega
        rw [e]
        simp [hb, h1, h2]
      · have h1 : ¬ i / 4 < k := by omega
        have h2 : ¬ i / 4 < k + 1 := by omega
        have h3 : (sbox (nibble S k)).getLsbD (i - 4 * k) = false := BitVec.getLsbD_of_ge _ _ (by omega)
        simp only [hb, h1, h2, h3, decide_true, decide_false, Bool.and_false, Bool.false_and, Bool.or_false]
    · simp [hb]

theorem permRound_eq {b w : Nat} (S : BitVec b) (c : BitVec w) : permRound S c = pLayer (sboxLayer (addCounter S c)) := rfl

@[simp] theorem ctr_zero (v : Variant) : ctr v 0 = v.ctr0 := rfl

theorem ctr_succ (v : Variant) (t : Nat) : ctr v (t + 1) = lfsrNext v (ctr v t) := rfl

@[simp] theorem rounds_zero (v : Variant) (S : BitVec v.b) : rounds v S 0 = S := rfl

theorem rounds_succ (v : Variant) (S : BitVec v.b) (t : Nat) :
    rounds v S (t + 1) = permRound (rounds v S t) (ctr v t) := rfl

theorem perm_eq (v : Variant) (S : BitVec v.b) : perm v S = rounds v S v.rounds := rfl

end Sys2Proof.Machine
end

