-- ==== Sys2Proof/Laws/State.lean ====
section
/-! SUPPORT. One lemma per field per update of the registers, the core and the state, each true by rfl. -/

namespace Sys2Proof.Machine

variable {v : Variant}

/-! ### Register updates -/

@[simp] theorem Regs.raiseError_S (g : Regs v) (e : Err) : (g.raiseError e).S = g.S := rfl
@[simp] theorem Regs.raiseError_lfsr (g : Regs v) (e : Err) : (g.raiseError e).lfsr = g.lfsr := rfl
@[simp] theorem Regs.raiseError_rnd (g : Regs v) (e : Err) : (g.raiseError e).rnd = g.rnd := rfl
@[simp] theorem Regs.raiseError_nout (g : Regs v) (e : Err) : (g.raiseError e).nout = g.nout := rfl
@[simp] theorem Regs.raiseError_ctl (g : Regs v) (e : Err) : (g.raiseError e).ctl = .error := rfl
@[simp] theorem Regs.raiseError_err (g : Regs v) (e : Err) : (g.raiseError e).err = e := rfl

@[simp] theorem Regs.returnToInit_S (g : Regs v) : g.returnToInit.S = 0#v.b := rfl
@[simp] theorem Regs.returnToInit_lfsr (g : Regs v) : g.returnToInit.lfsr = ctr v 0 := rfl
@[simp] theorem Regs.returnToInit_rnd (g : Regs v) : g.returnToInit.rnd = 0#v.w := rfl
@[simp] theorem Regs.returnToInit_nout (g : Regs v) : g.returnToInit.nout = 0#5 := rfl
@[simp] theorem Regs.returnToInit_ctl (g : Regs v) : g.returnToInit.ctl = .init := rfl
@[simp] theorem Regs.returnToInit_err (g : Regs v) : g.returnToInit.err = .none := rfl

@[simp] theorem Regs.startPerm_S (g : Regs v) : g.startPerm.S = g.S := rfl
@[simp] theorem Regs.startPerm_lfsr (g : Regs v) : g.startPerm.lfsr = ctr v 0 := rfl
@[simp] theorem Regs.startPerm_rnd (g : Regs v) : g.startPerm.rnd = 0#v.w := rfl
@[simp] theorem Regs.startPerm_nout (g : Regs v) : g.startPerm.nout = g.nout := rfl
@[simp] theorem Regs.startPerm_ctl (g : Regs v) : g.startPerm.ctl = g.ctl := rfl
@[simp] theorem Regs.startPerm_err (g : Regs v) : g.startPerm.err = g.err := rfl

@[simp] theorem Regs.absorbBlock_S (g : Regs v) (d) (x : Ctl) : (g.absorbBlock d x).S = g.S ^^^ zextBlock v d := rfl
@[simp] theorem Regs.absorbBlock_lfsr (g : Regs v) (d) (x : Ctl) : (g.absorbBlock d x).lfsr = ctr v 0 := rfl
@[simp] theorem Regs.absorbBlock_rnd (g : Regs v) (d) (x : Ctl) : (g.absorbBlock d x).rnd = 0#v.w := rfl
@[simp] theorem Regs.absorbBlock_nout (g : Regs v) (d) (x : Ctl) : (g.absorbBlock d x).nout = g.nout := rfl
@[simp] theorem Regs.absorbBlock_ctl (g : Regs v) (d) (x : Ctl) : (g.absorbBlock d x).ctl = x := rfl
@[simp] theorem Regs.absorbBlock_err (g : Regs v) (d) (x : Ctl) : (g.absorbBlock d x).err = g.err := rfl

@[simp] theorem Regs.completePermutation_S (g : Regs v) : g.completePermutation.S = perm v g.S := rfl
@[simp] theorem Regs.completePermutation_lfsr (g : Regs v) : g.completePermutation.lfsr = ctr v v.rounds := rfl
@[simp] theorem Regs.completePermutation_rnd (g : Regs v) : g.completePermutation.rnd = 0#v.w := rfl
@[simp] theorem Regs.completePermutation_nout (g : Regs v) : g.completePermutation.nout = g.nout := rfl
@[simp] theorem Regs.completePermutation_ctl (g : Regs v) : g.completePermutation.ctl = g.ctl.succ := rfl
@[simp] theorem Regs.completePermutation_err (g : Regs v) : g.completePermutation.err = g.err := rfl

/-! ### Core updates -/

@[simp] theorem CoreState.withRegs_order (c : CoreState v) (g : Regs v) : (c.withRegs g).order = c.order := rfl
@[simp] theorem CoreState.withRegs_wasReset (c : CoreState v) (g : Regs v) : (c.withRegs g).wasReset = c.wasReset := rfl
@[simp] theorem CoreState.withRegs_regs (c : CoreState v) (g : Regs v) : (c.withRegs g).regs = g := rfl
@[simp] theorem CoreState.withRegs_host (c : CoreState v) (g : Regs v) : (c.withRegs g).host = c.host := rfl
@[simp] theorem CoreState.withRegs_cycle (c : CoreState v) (g : Regs v) : (c.withRegs g).cycle = c.cycle := rfl
@[simp] theorem CoreState.withRegs_pins (c : CoreState v) (g : Regs v) : (c.withRegs g).pins = c.pins := rfl

@[simp] theorem CoreState.tick_order (c : CoreState v) : c.tick.order = c.order := rfl
@[simp] theorem CoreState.tick_wasReset (c : CoreState v) : c.tick.wasReset = c.wasReset := rfl
@[simp] theorem CoreState.tick_regs (c : CoreState v) : c.tick.regs = c.regs := rfl
@[simp] theorem CoreState.tick_host (c : CoreState v) : c.tick.host = c.host.tail := rfl
@[simp] theorem CoreState.tick_cycle (c : CoreState v) : c.tick.cycle = c.cycle + 1 := rfl

@[simp] theorem CoreState.resetEdge_order (c : CoreState v) : c.resetEdge.order = c.order := rfl
@[simp] theorem CoreState.resetEdge_wasReset (c : CoreState v) : c.resetEdge.wasReset = true := rfl
@[simp] theorem CoreState.resetEdge_regs (c : CoreState v) : c.resetEdge.regs = Regs.reset v := rfl
@[simp] theorem CoreState.resetEdge_host (c : CoreState v) : c.resetEdge.host = c.host := rfl
@[simp] theorem CoreState.resetEdge_cycle (c : CoreState v) : c.resetEdge.cycle = c.cycle := rfl

@[simp] theorem CoreState.elapse_order (c : CoreState v) (k : Nat) : (c.elapse k).order = c.order := rfl
@[simp] theorem CoreState.elapse_wasReset (c : CoreState v) (k : Nat) : (c.elapse k).wasReset = c.wasReset := rfl
@[simp] theorem CoreState.elapse_regs (c : CoreState v) (k : Nat) : (c.elapse k).regs = c.regs := rfl
@[simp] theorem CoreState.elapse_host (c : CoreState v) (k : Nat) : (c.elapse k).host = c.host.drop k := rfl
@[simp] theorem CoreState.elapse_cycle (c : CoreState v) (k : Nat) : (c.elapse k).cycle = c.cycle + k := rfl

@[simp] theorem CoreState.withPins_order (c : CoreState v) (p : Pins v) : (c.withPins p).order = c.order := rfl
@[simp] theorem CoreState.withPins_wasReset (c : CoreState v) (p : Pins v) : (c.withPins p).wasReset = c.wasReset := rfl
@[simp] theorem CoreState.withPins_regs (c : CoreState v) (p : Pins v) : (c.withPins p).regs = c.regs := rfl
@[simp] theorem CoreState.withPins_pins (c : CoreState v) (p : Pins v) : (c.withPins p).pins = p := rfl
@[simp] theorem CoreState.withPins_cycle (c : CoreState v) (p : Pins v) : (c.withPins p).cycle = c.cycle := rfl

/-- Passing `k` edges and then one is passing `k + 1`. -/
theorem CoreState.tick_elapse (c : CoreState v) (k : Nat) : c.tick.elapse k = c.elapse (k + 1) := by
  obtain ⟨o, wr, g, host, cyc⟩ := c
  cases host <;> simp [CoreState.tick, CoreState.elapse, Nat.add_assoc, Nat.add_comm 1 k]

@[simp] theorem CoreState.elapse_zero (c : CoreState v) : c.elapse 0 = c := rfl

@[simp] theorem CoreState.withRegs_self (c : CoreState v) : c.withRegs c.regs = c := rfl

@[simp] theorem CoreState.withRegs_withRegs (c : CoreState v) (g h : Regs v) : (c.withRegs g).withRegs h = c.withRegs h := rfl

/-! ### State updates -/

@[simp] theorem State.mapCore_mk (c : CoreState v) (f : CoreState v → CoreState v) :
    State.mapCore { variant := v, core := c } f = { variant := v, core := f c } := rfl
@[simp] theorem State.mapCore_variant (s : State) (f) : (s.mapCore f).variant = s.variant := rfl

/-! ### Reset values -/

@[simp] theorem Regs.reset_S : (Regs.reset v).S = 0#v.b := rfl
@[simp] theorem Regs.reset_lfsr : (Regs.reset v).lfsr = v.ctr0 := rfl
@[simp] theorem Regs.reset_rnd : (Regs.reset v).rnd = 0#v.w := rfl
@[simp] theorem Regs.reset_nout : (Regs.reset v).nout = 0#5 := rfl
@[simp] theorem Regs.reset_ctl : (Regs.reset v).ctl = .init := rfl
@[simp] theorem Regs.reset_err : (Regs.reset v).err = .none := rfl

end Sys2Proof.Machine
end

