-- ==== Sys2Proof/Laws/Step.lean ====
section
/-! SUPPORT. What each shared operation can do, said once, and the inversion of a step. Later proofs cite these and unfold
neither the operations nor `step`. -/

namespace Sys2Proof.Machine

variable {v : Variant}

/-- Everything a command transfer can do to a core. -/
theorem CoreState.onTransfer_cases (c : CoreState v) (f : Regs v → Regs v) :
    (c.regs.ctl.accepts = true ∧ c.onTransfer f = c.withRegs (f c.regs)) ∨
    (c.regs.ctl.accepts = false ∧ c.onTransfer f = c) := by
  cases h : c.regs.ctl.accepts <;> simp [CoreState.onTransfer, h]

/-- Everything the dispatch shared by `ABSORB` and `FINAL` can do. -/
theorem Regs.blockCommand_cases (g : Regs v) (f : Regs v → Regs v) :
    (g.ctl = .error ∧ g.blockCommand f = g) ∨ (g.ctl = .done ∧ g.blockCommand f = g.raiseError .seq) ∨
    (g.ctl ≠ .error ∧ g.ctl ≠ .done ∧ g.blockCommand f = f g) := by
  by_cases he : g.ctl = .error
  · exact .inl ⟨he, by simp [Regs.blockCommand, he]⟩
  · by_cases hd : g.ctl = .done
    · exact .inr (.inl ⟨hd, by simp [Regs.blockCommand, hd]⟩)
    · exact .inr (.inr ⟨he, hd, by simp [Regs.blockCommand, he, hd]⟩)

/-- Everything a round step can do: complete the permutation or go one round on. -/
theorem Regs.roundStep_cases (g : Regs v) :
    (g.rnd.toNat = v.rounds - 1 ∧ g.roundStep =
      { g with S := permRound g.S g.lfsr, lfsr := lfsrNext v g.lfsr, rnd := 0#v.w, ctl := g.ctl.succ }) ∨
    (g.rnd.toNat ≠ v.rounds - 1 ∧ g.roundStep =
      { g with S := permRound g.S g.lfsr, lfsr := lfsrNext v g.lfsr, rnd := g.rnd + 1#v.w }) := by
  by_cases h : g.rnd.toNat = v.rounds - 1
  · exact .inl ⟨h, by simp [Regs.roundStep, h]⟩
  · exact .inr ⟨h, by simp [Regs.roundStep, h]⟩

/-- Everything an output transfer can do: end the hash or start the next squeeze permutation. -/
theorem Regs.outputTransfer_cases (g : Regs v) :
    (g.nout.toNat = v.nb - 1 ∧ g.outputTransfer = { g with nout := g.nout + 1#5, ctl := .done }) ∨
    (g.nout.toNat ≠ v.nb - 1 ∧ g.outputTransfer = { g.startPerm with nout := g.nout + 1#5, ctl := .sqzPerm }) := by
  by_cases h : g.nout.toNat = v.nb - 1
  · exact .inl ⟨h, by simp [Regs.outputTransfer, h]⟩
  · exact .inr ⟨h, by simp [Regs.outputTransfer, h]⟩

/-- The effect of a transferred command on the registers, as the four meanings give it. -/
def commandEffect (o : BitOrder) (i : Instr) (g : Regs v) : Regs v :=
  match i with
  | .init _ _ => g.returnToInit
  | .absorb _ data => g.blockCommand fun g => g.absorbBlock (blockOperand v data) .absPerm
  | .final len data => g.blockCommand fun g =>
      if v.r ≤ lenOperand len then g.raiseError .len
      else g.absorbBlock (padBlock o (blockOperand v data) (lenOperand len)) .finPerm
  | .rsv _ _ => if g.ctl = .error then g else g.raiseError .badcmd

/-- Every command answers a next state, the one its effect gives. -/
theorem exec_mk (i : Instr) (c : CoreState v) :
    exec i { variant := v, core := c } = .next { variant := v, core := c.onTransfer (commandEffect c.order i) } := by
  cases i <;> rfl

/-- The core after an edge at which the machine steps, in the order of rule R97. -/
def CoreState.next (c : CoreState v) : CoreState v :=
  if c.pins.rst then c.tick.resetEdge
  else if c.regs.ctl.busy then c.tick.withRegs c.regs.roundStep
  else if c.outXfer then c.tick.withRegs c.regs.outputTransfer
  else if c.cmdXfer then c.tick.onTransfer (commandEffect c.order c.offered)
  else c.tick

/-- A step stops only before the first reset edge. -/
theorem step_mk (c : CoreState v) :
    step { variant := v, core := c } =
      if c.pins.rst = false ∧ c.wasReset = false then .fault .beforeFirstReset
      else .next { variant := v, core := c.next } := by
  unfold step CoreState.next
  cases hr : c.pins.rst <;> cases hw : c.wasReset <;> simp
  split
  · rfl
  · split
    · rfl
    · split
      · exact exec_mk _ _
      · rfl

/-- A step past the first reset edge. -/
theorem step_of_wasReset {c : CoreState v} (h : c.wasReset = true) :
    step { variant := v, core := c } = .next { variant := v, core := c.next } := by simp [step_mk, h]

/-- The handshake outputs past the first reset edge. -/
theorem CoreState.cmdXfer_eq {c : CoreState v} (h : c.wasReset = true) :
    c.cmdXfer = (!c.pins.rst && c.pins.cmdValid && c.regs.ctl.accepts) := by
  cases hr : c.pins.rst <;> simp [CoreState.cmdXfer, CoreState.ports, CoreState.portsAt, hr, h, runPorts]

theorem CoreState.outXfer_eq {c : CoreState v} (h : c.wasReset = true) :
    c.outXfer = (!c.pins.rst && decide (c.regs.ctl = .sqzOut) && c.pins.outReady) := by
  cases hr : c.pins.rst <;> simp [CoreState.outXfer, CoreState.ports, CoreState.portsAt, hr, h, runPorts]

/-- The inversion of a step: everything it can do, with its guards. -/
theorem step_cases {s t : State} (h : step s = .next t) :
    ∃ (v : Variant) (c d : CoreState v), s = { variant := v, core := c } ∧ t = { variant := v, core := d } ∧
      ((c.pins.rst = true ∧ d = c.tick.resetEdge) ∨
       (c.pins.rst = false ∧ c.wasReset = true ∧ c.regs.ctl.busy = true ∧ d = c.tick.withRegs c.regs.roundStep) ∨
       (c.pins.rst = false ∧ c.wasReset = true ∧ c.regs.ctl = .sqzOut ∧ c.outXfer = true ∧
          d = c.tick.withRegs c.regs.outputTransfer) ∨
       (c.pins.rst = false ∧ c.wasReset = true ∧ c.regs.ctl.accepts = true ∧ c.cmdXfer = true ∧
          d = c.tick.withRegs (commandEffect c.order c.offered c.regs)) ∨
       (c.pins.rst = false ∧ c.wasReset = true ∧ c.regs.ctl.busy = false ∧ c.outXfer = false ∧ c.cmdXfer = false ∧
          d = c.tick)) := by
  obtain ⟨v, c⟩ := s
  rw [step_mk] at h
  split at h
  · cases h
  · rename_i hn
    obtain rfl : State.mk v c.next = t := by injection h
    refine ⟨v, c, c.next, rfl, rfl, ?_⟩
    unfold CoreState.next
    cases hr : c.pins.rst
    · have hw : c.wasReset = true := by
        cases hw : c.wasReset
        · exact absurd ⟨hr, hw⟩ hn
        · rfl
      cases hb : c.regs.ctl.busy
      · cases ho : c.outXfer
        · cases hc : c.cmdXfer
          · simp [hw]
          · have ha : c.regs.ctl.accepts = true := by
              have := CoreState.cmdXfer_eq hw
              simp_all
            simp [hw, ha, CoreState.onTransfer]
        · have hs : c.regs.ctl = .sqzOut := by
            have := CoreState.outXfer_eq hw
            simp_all
          simp [hw, hs]
      · simp [hw]
    · simp

end Sys2Proof.Machine
end

