-- ==== Sys2Proof/Tests/Slice0.lean ====
section
/-! SUPPORT. The model's own tests: the checks of WellFormed, words decoded by hand from rule R52, one-step tests with the
values of 95_test_vectors.md, and a witness for the hypotheses of every statement. -/

namespace Sys2Proof.Machine

/-! ## Small states -/

/-- A core after reset, but with this `ctl`. -/
def coreAt (v : Variant) (x : Ctl) : CoreState v :=
  { CoreState.reset v .msbFirst with regs := { Regs.reset v with ctl := x } }

/-- A core in `SQZ_OUT` with this `nout`. -/
def coreOut (v : Variant) (n : BitVec 5) : CoreState v :=
  { CoreState.reset v .msbFirst with regs := { Regs.reset v with ctl := .sqzOut, nout := n } }

/-- A core in `ABS_PERM` before round `t`. -/
def coreRound (v : Variant) (t : Nat) : CoreState v :=
  { CoreState.reset v .msbFirst with
    regs := { Regs.reset v with ctl := .absPerm, rnd := BitVec.ofNat v.w t, lfsr := ctr v t } }

/-- Inputs that only take an output block. -/
def Pins.take (v : Variant) : Pins v := { Pins.idle v with outReady := true }

/-- Inputs that only reset. -/
def Pins.reset (v : Variant) : Pins v := { Pins.idle v with rst := true }

/-- The registers as numbers and names, whatever the variant. -/
structure Seen where
  S : Nat
  lfsr : Nat
  rnd : Nat
  nout : Nat
  ctl : Ctl
  err : Err
deriving DecidableEq, Repr

/-- The registers after a step. -/
def seen : Host.Outcome State Fault Refusal → Option Seen
  | .next t => some ⟨t.core.regs.S.toNat, t.core.regs.lfsr.toNat, t.core.regs.rnd.toNat, t.core.regs.nout.toNat,
      t.core.regs.ctl, t.core.regs.err⟩
  | .fault _ => none
  | .refused _ => none

/-! ## WellFormed: each check refuses an ill-formed command (rule R50) -/

theorem test_len_too_wide_is_refused :
    (Instr.final 16#5 0x00#16).lenFits .s88 = false ∧ (Instr.final 16#5 0x00#16).wf .s88 = false := by decide

theorem test_data_too_wide_is_refused :
    (Instr.absorb 0#5 0x100#16).dataFits .s88 = false ∧ (Instr.absorb 0#5 0x100#16).wf .s88 = false := by decide

theorem test_fitting_operands_are_well_formed :
    (Instr.final 8#5 0xFF#16).wf .s88 = true ∧ (Instr.final 31#5 0xFFFF#16).wf .s256 = true := by decide

/-! ## Decoding: words packed by hand, `data ++ len ++ op` (rule R52; 95_test_vectors.md V6 and P) -/

theorem test_decode_init : decode .s88 0b00000000_0000_00#14 = .init 0 0 := by decide
theorem test_decode_absorb : decode .s88 0b01100001_0000_01#14 = .absorb 0 0x61 := by decide
theorem test_decode_absorb_with_len : decode .s88 0b01100001_0101_01#14 = .absorb 5 0x61 := by decide
theorem test_decode_final : decode .s88 0b11111110_0111_10#14 = .final 7 0xFE := by decide
theorem test_decode_rsv : decode .s88 0b00000000_0000_11#14 = .rsv 0 0 := by decide
theorem test_decode_init_r16 : decode .s224 0b1000000000000001_10000_00#23 = .init 16 0x8001 := by decide
theorem test_decode_absorb_r16 : decode .s256 0b0110001001100001_00000_01#23 = .absorb 0 0x6261 := by decide
theorem test_decode_final_r16 : decode .s160 0b0000000010000000_00001_10#23 = .final 1 0x0080 := by decide
theorem test_decode_rsv_r16 : decode .s160 0b0000000000000000_11111_11#23 = .rsv 31 0 := by decide
theorem test_decode_wider_number : decodeNat .s88 0x4000 = .error .widerThanCommandWord := by decide

/-- The four rows of the opcode table, by their `match` words. -/
theorem test_decode_table_rows :
    decodeTableWord 8 0 = some (.init 0 0) ∧ decodeTableWord 8 1 = some (.absorb 0 0) ∧
    decodeTableWord 8 2 = some (.final 0 0) ∧ decodeTableWord 8 3 = some (.rsv 0 0) := by decide

/-! ## One command at a time (V6) -/

/-- V6 row 1. -/
theorem test_absorb_starts_permutation :
    seen (exec (.absorb 0 0x61) ⟨.s88, coreAt .s88 .init⟩) = some ⟨0x61, 0x05, 0, 0, .absPerm, .none⟩ := by decide +kernel

/-- V6 row 19. -/
theorem test_absorb_in_done_is_seq :
    seen (exec (.absorb 0 0x61) ⟨.s88, { coreAt .s88 .done with regs := { Regs.reset .s88 with ctl := .done, nout := 11 } }⟩)
      = some ⟨0, 0x05, 0, 11, .error, .seq⟩ := by decide +kernel

/-- V6 rows 13 and 14. -/
theorem test_final_pads_the_block :
    seen (exec (.final 7 0xFE) ⟨.s88, coreAt .s88 .init⟩) = some ⟨0xFF, 0x05, 0, 0, .finPerm, .none⟩ ∧
    seen (exec (.final 1 0x0080) ⟨.s160, coreAt .s160 .init⟩) = some ⟨0x00C0, 0x45, 0, 0, .finPerm, .none⟩ := by
  decide +kernel

/-- V6 rows 16 and 20. -/
theorem test_final_len_error_and_priority :
    seen (exec (.final 8 0) ⟨.s88, coreAt .s88 .init⟩) = some ⟨0, 0x05, 0, 0, .error, .len⟩ ∧
    seen (exec (.final 8 0) ⟨.s88, coreAt .s88 .done⟩) = some ⟨0, 0x05, 0, 0, .error, .seq⟩ := by decide +kernel

/-- V6 row 23. -/
theorem test_init_leaves_error :
    seen (exec (.init 3 0x1FF) ⟨.s88, { coreAt .s88 .error with regs :=
      { S := 0x55#88, lfsr := 0x3F#6, rnd := 0#6, nout := 11#5, ctl := .error, err := .seq } }⟩)
      = some ⟨0, 0x05, 0, 0, .init, .none⟩ := by decide +kernel

/-- V6 rows 18, 21 and 22. -/
theorem test_rsv_is_badcmd_and_ignored_in_error :
    seen (exec (.rsv 0 0) ⟨.s88, coreAt .s88 .init⟩) = some ⟨0, 0x05, 0, 0, .error, .badcmd⟩ ∧
    seen (exec (.rsv 0 0) ⟨.s88, coreAt .s88 .done⟩) = some ⟨0, 0x05, 0, 0, .error, .badcmd⟩ ∧
    seen (exec (.rsv 0 0) ⟨.s88, coreAt .s88 .error⟩) = some ⟨0, 0x05, 0, 0, .error, .none⟩ := by decide +kernel

/-! ## The edges of the machine -/

/-- The rows of the table, stepped from reset: the first step runs the command of the word (V6 rows 1, 8, 18). -/
theorem test_fetch_word_runs_at_the_next_step :
    seen (step (State.reset.withFetchWord 14 0x1841)) = some ⟨0x61, 0x05, 0, 0, .absPerm, .none⟩ ∧
    seen (step (State.reset.withFetchWord 14 0x0002)) = some ⟨0x80, 0x05, 0, 0, .finPerm, .none⟩ ∧
    seen (step (State.reset.withFetchWord 14 0x0003)) = some ⟨0, 0x05, 0, 0, .error, .badcmd⟩ ∧
    seen (step (State.reset.withFetchWord 14 0x0000)) = some ⟨0, 0x05, 0, 0, .init, .none⟩ := by decide +kernel

/-- V6 row 2. -/
theorem test_round_edge :
    seen (step ⟨.s88, { coreAt .s88 .absPerm with regs := { Regs.reset .s88 with S := 0x61#88, ctl := .absPerm } }⟩)
      = some ⟨0xFFFFF1FFFFE7FFFF400000, 0x0A, 1, 0, .absPerm, .none⟩ := by decide +kernel

/-- V6 rows 9 and 10. -/
theorem test_output_transfer :
    seen (step ⟨.s88, (coreOut .s88 0).withPins (Pins.take .s88)⟩) = some ⟨0, 0x05, 0, 1, .sqzPerm, .none⟩ ∧
    seen (step ⟨.s88, (coreOut .s88 10).withPins (Pins.take .s88)⟩) = some ⟨0, 0x05, 0, 11, .done, .none⟩ := by
  decide +kernel

/-- V6 row 28. -/
theorem test_reset_abandons_the_permutation :
    seen (step ⟨.s88, (coreRound .s88 9).withPins (Pins.reset .s88)⟩) = some ⟨0, 0x05, 0, 0, .init, .none⟩ := by
  decide +kernel

/-- V1, V2, V3 and V4, one line each. -/
theorem test_datapath_vectors :
    sboxLayer 0x0123456789ABCDEF012345#88 = 0xEDB0214F7A859C36EDB021#88 ∧
    pLayer 0x0123456789ABCDEF012345#88 = 0x00FF003C3C333333155555#88 ∧
    addCounter (0#176) (ctr .s160 0) = 0xA2000000000000000000000000000000000000000045#176 ∧
    permRound (0#272) (ctr .s256 0) = 0xFFFFFFFFFFFFFFFFEBFFFFFFFFFFFFFFFCFFFFFFFFFFFFFFFFF80000000000000001#272 := by
  decide +kernel

/-- V5: both bit orders. -/
theorem test_pad_block_vectors :
    (List.range 8).map (padBlock .msbFirst 0xA5#8) = [0x80, 0xC0, 0xA0, 0xB0, 0xA8, 0xA4, 0xA6, 0xA5] ∧
    padBlock .msbFirst 0xA5C3#16 9 = 0xC0C3#16 ∧ padBlock .lsbFirst 0xA5C3#16 9 = 0x03C3#16 := by decide +kernel

/-- V7, S88, the empty message. -/
theorem test_hash_of_the_empty_message :
    spongentHash .s88 .msbFirst [] 0 =
      [0xA0, 0xC6, 0xC9, 0x35, 0x10, 0xFE, 0x87, 0x1F, 0x38, 0x5A, 0x7F] := by decide +kernel

/-! ## Witnesses: the hypotheses of each statement hold together somewhere -/

theorem witness_decode_inverts_encode :
    (Instr.final 15#5 0xFF#16).wf .s88 = true ∧ (Instr.absorb 31#5 0xFFFF#16).wf .s256 = true ∧
    (Instr.init 0#5 0#16).wf .s128 = true ∧ (Instr.rsv 7#5 0x80#16).wf .s160 = true := by decide

theorem witness_wider_numbers : 0x3FFF < 2 ^ (Variant.cww .s88) ∧ 2 ^ (Variant.cww .s88) ≤ 0x4000 := by decide

theorem witness_step_runs_the_offered_command :
    let c := (coreAt .s88 .absWait).withPins (Pins.offer .s88 (.final 7 0xFE))
    c.wasReset = true ∧ c.regs.ctl.accepts = true ∧ c.pins.rst = false ∧ c.pins.cmdValid = true ∧
      (Instr.final 15 0xFF).wf .s88 = true := by decide +kernel

theorem witness_fetch_word :
    ((coreAt .s256 .done).wasReset = true ∧ (coreAt .s256 .done).regs.ctl.accepts = true ∧ 0x7FFFFF < 2 ^ 23 ∧
      0x7FFFFF < 2 ^ (Variant.cww .s256)) ∧
    decodeTableWord 14 0x3F9E = some (.final 7 0xFE) := by decide +kernel

theorem witness_reset_edge : ((coreRound .s88 9).withPins (Pins.reset .s88)).pins.rst = true := by decide

theorem witness_holding_reset :
    let c : CoreState .s88 := { coreAt .s88 .error with host := [Pins.reset .s88, Pins.reset .s88, Pins.take .s88] }
    1 ≤ 2 ∧ 2 ≤ c.host.length ∧ ∀ p ∈ c.host.take 2, p.rst = true := by decide +kernel

theorem witness_no_step_before_reset :
    let c := CoreState.powerUp .msbFirst (Regs.reset .s88) [Pins.take .s88]
    let d := CoreState.powerUp .msbFirst (Regs.reset .s88) [Pins.reset .s88]
    (c.wasReset = false ∧ c.pins.rst = false) ∧ ¬ (d.wasReset = false ∧ d.pins.rst = false) := by decide +kernel

theorem witness_one_reset_edge : (Pins.reset .s160).rst = true ∧ (Pins.take .s160).rst = false := by decide

/-- In `INIT` with `out_ready` set, in `SQZ_OUT` with a command offered, and in `ERROR` with nothing driven. -/
theorem witness_idle_edge :
    (∀ c ∈ [(coreAt .s88 .init).withPins (Pins.take .s88), (coreOut .s88 10).withPins (Pins.offer .s88 (.init 0 0)),
      coreAt .s88 .error],
      c.wasReset = true ∧ c.pins.rst = false ∧ c.regs.ctl.busy = false ∧ ¬ (c.regs.ctl = .sqzOut ∧ c.pins.outReady = true) ∧
      ¬ (c.regs.ctl.accepts = true ∧ c.pins.cmdValid = true)) ∧
    ((coreOut .s88 10).withPins (Pins.offer .s88 (.init 0 0))).regs.ctl = .sqzOut := by decide +kernel

theorem witness_unsampled_inputs :
    let p := { Pins.idle .s88 with cmdOp := 3#2 }
    let q := { Pins.idle .s88 with cmdData := 0xFF#8 }
    (p.rst = q.rst ∧ p.outReady = q.outReady ∧ p.cmdValid = false ∧ q.cmdValid = false) ∧
    ((Pins.offer .s88 (.init 0 0)).rst = q.rst ∧ (Pins.offer .s88 (.init 0 0)).outReady = q.outReady ∧
      (coreAt .s88 .sqzPerm).regs.ctl.accepts = false) ∧
    ((Pins.take .s88).rst = q.rst ∧ (coreAt .s88 .init).regs.ctl ≠ .sqzOut) := by decide +kernel

theorem witness_init_everywhere_ready : ∀ x ∈ [Ctl.init, .absWait, .done, .error],
    let c := coreAt .s88 x
    c.regs.ctl = .init ∨ c.regs.ctl = .absWait ∨ c.regs.ctl = .done ∨ c.regs.ctl = .error := by decide +kernel

theorem witness_absorb :
    ((coreAt .s88 .init).regs.ctl = .init ∧ (coreAt .s88 .absWait).regs.ctl = .absWait) ∧
    (coreAt .s88 .done).regs.ctl = .done ∧ (coreAt .s88 .error).regs.ctl = .error := by decide

/-- `len = r - 1` and `len = r`, for both rates. -/
theorem witness_final :
    ((coreAt .s88 .init).regs.ctl = .init ∧ (7#5).toNat ≤ Variant.r .s88 - 1) ∧
    ((coreAt .s256 .absWait).regs.ctl = .absWait ∧ (15#5).toNat ≤ Variant.r .s256 - 1) ∧
    Variant.r .s88 ≤ (8#5).toNat ∧ Variant.r .s256 ≤ (16#5).toNat ∧
    (coreAt .s88 .done).regs.ctl = .done ∧ (coreAt .s88 .error).regs.ctl = .error := by decide

theorem witness_rsv : (coreAt .s88 .init).regs.ctl = .init ∧ (coreAt .s88 .absWait).regs.ctl = .absWait ∧
    (coreAt .s88 .done).regs.ctl = .done ∧ (coreAt .s88 .error).regs.ctl = .error := by decide

/-- Each clause of the priority, `len` at `r - 1` and at `r`. -/
theorem witness_error_priority :
    (∀ x ∈ [Ctl.init, .absWait, .done, .error], (coreAt .s88 x).regs.ctl.accepts = true) ∧
    (Instr.init 0 0).op = 0b00#2 ∧ (Instr.absorb 0 0).op = 0b01#2 ∧
    ((Instr.final 7 0).op = 0b10#2 ∧ (Instr.final 7 0).len.toNat < Variant.r .s88) ∧
    ((Instr.final 8 0).op = 0b10#2 ∧ Variant.r .s88 ≤ (Instr.final 8 0).len.toNat) ∧
    ((Instr.rsv 0 0).op = 0b11#2 ∧ (coreAt .s88 .init).regs.ctl ≠ .error) := by decide +kernel

/-- A command that is rejected, and one that finds the core in `ERROR`. -/
theorem witness_errors_are_precise :
    (∃ d : CoreState .s88, exec (.final 8 0) ⟨.s88, coreAt .s88 .init⟩ = .next ⟨.s88, d⟩ ∧ d.regs.ctl = .error) ∧
    (∃ d : CoreState .s88, exec (.absorb 0 1) ⟨.s88, coreAt .s88 .error⟩ = .next ⟨.s88, d⟩ ∧ d.regs.ctl = .error) :=
  ⟨⟨_, rfl, by decide⟩, ⟨_, rfl, by decide⟩⟩

theorem witness_commands_need_ready : (coreAt .s88 .absPerm).regs.ctl = .absPerm ∧
    (coreAt .s88 .finPerm).regs.ctl = .finPerm ∧ (coreAt .s88 .sqzOut).regs.ctl = .sqzOut ∧
    (coreAt .s88 .sqzPerm).regs.ctl = .sqzPerm := by decide

/-- One message bit, the first, in two blocks that agree there and nowhere else. -/
theorem witness_ignored_bits : ∀ t < (1#5).toNat,
    (0x80#16).getLsbD (pos .msbFirst t) = (0xFFFF#16).getLsbD (pos .msbFirst t) := by decide +kernel

theorem witness_command_frame :
    (Instr.rsv 0 0).op ≠ 0b00#2 ∧ (Instr.rsv 0 0).op = 0b11#2 ∧ Variant.r .s88 ≤ 8 ∧ Variant.r .s88 ≤ 87 ∧
    ∃ d : CoreState .s88, exec (.rsv 0 0) ⟨.s88, coreAt .s88 .init⟩ = .next ⟨.s88, d⟩ ∧
      d.regs.err ≠ (coreAt .s88 .init).regs.err := ⟨by decide, by decide, by decide, by decide, _, rfl, by decide⟩

/-- Both bytes of a rate of 16 bits, and the first byte of the capacity. -/
theorem witness_absorb_byte_order :
    (coreAt .s256 .init).regs.ctl = .init ∧ 0 < Variant.r .s256 / 8 ∧ 1 < Variant.r .s256 / 8 ∧ Variant.r .s256 / 8 ≤ 2 := by
  decide

/-- `ERROR` left by a reset edge, and by `INIT`. -/
theorem witness_leaving_error :
    (∃ d : CoreState .s88, (coreAt .s88 .error).regs.ctl = .error ∧
      step ⟨.s88, (coreAt .s88 .error).withPins (Pins.reset .s88)⟩ = .next ⟨.s88, d⟩ ∧ d.regs.ctl ≠ .error) ∧
    (∃ d : CoreState .s88, step ⟨.s88, (coreAt .s88 .error).withPins (Pins.offer .s88 (.init 0 0))⟩ = .next ⟨.s88, d⟩ ∧
      d.regs.ctl ≠ .error) :=
  ⟨⟨_, by decide, rfl, by decide⟩, ⟨_, rfl, by decide⟩⟩

/-- Two edges in `ERROR` with a command transferred at each. -/
theorem witness_error_is_sticky :
    let c : CoreState .s88 := { coreAt .s88 .error with host := [Pins.offer .s88 (.final 8 0), Pins.offer .s88 (.rsv 0 0)] }
    c.runs 2 ∧ c.regs.ctl = .error ∧ commandsTaken 2 ⟨.s88, c⟩ = [.final 8 0, .rsv 0 0] ∧
      ∀ i ∈ commandsTaken 2 ⟨.s88, c⟩, i.op ≠ 0b00#2 :=
  ⟨⟨rfl, by decide⟩, rfl, by decide +kernel, by decide +kernel⟩

/-- The ranges of the datapath statements, at their ends. -/
theorem witness_datapath_ranges :
    21 < Variant.nn .s88 ∧ 86 ≤ Variant.b .s88 - 2 ∧ 3 < 4 ∧ 4 + 1 < Variant.w .s88 ∧ 43 < 44 ∧ 44 < Variant.rounds .s88 ∧
    5 < Variant.w .s88 ∧ (Variant.w .s88 ≤ 6 ∧ 6 < Variant.b .s88 - Variant.w .s88) ∧
    (Variant.w .s88 ≤ 81 ∧ 81 < Variant.b .s88 - Variant.w .s88) := by decide

/-- Bits and bytes of a block at the ends of their ranges; `q = 0` is the extra block. -/
theorem witness_block_ranges :
    7 < Variant.r .s88 ∧ 15 < Variant.r .s256 ∧ 0 < Variant.r .s88 / 8 ∧ 1 < Variant.r .s256 / 8 := by decide

/-- A message of one block and three more bits, and a block that holds those bits. -/
theorem witness_padded_message :
    0 < 11 / Variant.r .s88 ∧ ∀ t < 11 % Variant.r .s88,
      (0xA0#(Variant.r .s88)).getLsbD (pos .msbFirst t) =
        messageBit .msbFirst [0x61, 0xB8] (11 / Variant.r .s88 * Variant.r .s88 + t) := by decide +kernel

/-- Two byte strings with the same one message bit. -/
theorem witness_padding : pad .msbFirst (Variant.r .s88) [0x80] 1 = pad .msbFirst (Variant.r .s88) [0xFF] 1 := by
  decide +kernel

/-- The first, the last but one and the last round. -/
theorem witness_busy_edge : ∀ t ∈ [0, 43, 44],
    (coreRound .s88 t).wasReset = true ∧ (coreRound .s88 t).pins.rst = false ∧ (coreRound .s88 t).regs.ctl.busy = true ∧
    ((coreRound .s88 t).regs.rnd.toNat = Variant.rounds .s88 - 1 ↔ t = 44) := by decide +kernel

/-- The last round of each of the three permutations meets the invariant. -/
theorem witness_last_round :
    (coreRound .s88 44).wasReset = true ∧ (coreRound .s88 44).pins.rst = false ∧
    (coreRound .s88 44).regs.rnd.toNat = Variant.rounds .s88 - 1 ∧ (coreRound .s88 44).regs.Inv ∧
    ({ (coreRound .s88 44).regs with ctl := .finPerm } : Regs .s88).Inv ∧
    ({ (coreRound .s88 44).regs with ctl := .sqzPerm, nout := 10#5 } : Regs .s88).Inv := by
  refine ⟨rfl, rfl, by decide +kernel, ?_, ?_, ?_⟩ <;> constructor <;>
    first | decide +kernel | exact rfl | exact ⟨by decide, by decide⟩

theorem witness_permutation :
    (coreAt .s88 .finPerm).runs (Variant.rounds .s88) ∧ (coreAt .s88 .finPerm).regs.ctl.busy = true ∧
    (coreAt .s88 .finPerm).regs.rnd = 0 ∧ (coreAt .s88 .finPerm).regs.lfsr = ctr .s88 0 :=
  ⟨⟨rfl, by simp [coreAt, CoreState.reset]⟩, rfl, rfl, rfl⟩

theorem witness_absorb_transaction :
    let c := (coreAt .s88 .init).withPins (Pins.offer .s88 (.absorb 5 0x61))
    c.runs (1 + Variant.rounds .s88) ∧ c.regs.ctl = .init ∧ c.commandTaken = some (.absorb 5 0x61) :=
  ⟨⟨rfl, by decide +kernel⟩, rfl, by decide +kernel⟩

theorem witness_final_transaction :
    let c := (coreAt .s88 .absWait).withPins (Pins.offer .s88 (.final 7 0xFE))
    c.runs (1 + Variant.rounds .s88) ∧ c.regs.ctl = .absWait ∧ (7#5).toNat ≤ Variant.r .s88 - 1 ∧
      c.commandTaken = some (.final 7 0xFE) :=
  ⟨⟨rfl, by decide +kernel⟩, rfl, by decide, by decide +kernel⟩

/-- A command that starts a permutation, one that does not, and an output transfer of each kind. -/
theorem witness_transactions :
    (let c := (coreAt .s88 .init).withPins (Pins.offer .s88 (.absorb 0 0x61))
     c.wasReset = true ∧ c.commandTaken = some (.absorb 0 0x61) ∧ c.runs (1 + Variant.rounds .s88)) ∧
    (let c := (coreAt .s88 .error).withPins (Pins.offer .s88 (.init 0 0))
     c.wasReset = true ∧ c.commandTaken = some (.init 0 0) ∧ c.runs 1) ∧
    ∀ n ∈ [0#5, 10#5],
      let c := (coreOut .s88 n).withPins (Pins.take .s88)
      c.wasReset = true ∧ c.blockTaken = some 0#16 ∧ c.runs c.readEdge.transferEdges := by
  refine ⟨⟨rfl, by decide +kernel, rfl, by decide +kernel⟩, ⟨rfl, by decide +kernel, rfl, by decide +kernel⟩, ?_⟩
  intro n hn
  simp only [List.mem_cons, List.not_mem_nil, or_false] at hn
  rcases hn with rfl | rfl
  all_goals exact ⟨rfl, by decide +kernel, rfl, by decide +kernel⟩

/-- The first and the last output block. -/
theorem witness_output_transfer : ∀ n ∈ [0#5, 9#5, 10#5],
    let c := (coreOut .s88 n).withPins (Pins.take .s88)
    c.wasReset = true ∧ c.pins.rst = false ∧ c.regs.ctl = .sqzOut ∧ c.pins.outReady = true ∧
      (c.regs.nout.toNat = Variant.nb .s88 - 1 ↔ n = 10#5) := by decide +kernel

/-- The last block, `k = NB - 1`, is taken after `(NB - 1)·(R + 1) + 1` edges. -/
theorem witness_squeezed_blocks :
    let c : CoreState .s88 := { coreOut .s88 0 with host := List.replicate 461 (Pins.take .s88) }
    c.runs 461 ∧ c.regs.ctl = .sqzOut ∧ c.regs.nout = 0#5 ∧ 10 < Variant.nb .s88 ∧
      ∃ x, (blocksTaken 461 ⟨.s88, c⟩)[10]? = some x := by
  refine ⟨⟨rfl, ?_⟩, rfl, rfl, by decide, ?_⟩
  · decide +kernel
  · exact Option.isSome_iff_exists.1 (by decide +kernel)

/-- The host that hashes the empty message on S88 (95_test_vectors.md program P1): `FINAL 0`, then `out_ready` held. -/
def emptyMessageHost : CoreState .s88 :=
  { coreAt .s88 .init with host := Pins.offer .s88 (.final 0 0) :: List.replicate 506 (Pins.take .s88) }

theorem test_empty_message_commands : commandsTaken 507 ⟨.s88, emptyMessageHost⟩ = [.final 0 0] := by decide +kernel

/-- P1: the eleven blocks and no more, after 507 edges. -/
theorem test_empty_message_blocks : blocksTaken 507 ⟨.s88, emptyMessageHost⟩ =
    [0xA0, 0xC6, 0xC9, 0x35, 0x10, 0xFE, 0x87, 0x1F, 0x38, 0x5A, 0x7F] := by decide +kernel

theorem witness_fresh : (coreAt .s88 .init).fresh ∧ emptyMessageHost.fresh :=
  ⟨⟨rfl, rfl, rfl, rfl, rfl⟩, ⟨rfl, rfl, rfl, rfl, rfl⟩⟩

theorem witness_hash_run :
    emptyMessageHost.runs 507 ∧ emptyMessageHost.fresh ∧
    IsHashCommands .s88 emptyMessageHost.order [] 0 (commandsTaken 507 ⟨.s88, emptyMessageHost⟩) ∧
    (blocksTaken 507 ⟨.s88, emptyMessageHost⟩).length = Variant.nb .s88 := by
  refine ⟨⟨rfl, by decide +kernel⟩, witness_fresh.2, ?_, by rw [test_empty_message_blocks]; decide⟩
  rw [test_empty_message_commands]
  exact ⟨by decide, by simp, 0, 0, by decide, by decide, by simp⟩

/-- A host that hashes eleven bits on S88: one full block, offered with a nonzero ignored `len`, then a `FINAL` of three
bits with other ignored bits set. -/
def elevenBitHost : CoreState .s88 :=
  { coreAt .s88 .init with host := Pins.offer .s88 (.absorb 5 0x61) ::
      (List.replicate 45 (Pins.take .s88) ++ Pins.offer .s88 (.final 3 0xBF) :: List.replicate 506 (Pins.take .s88)) }

theorem test_eleven_bit_commands : commandsTaken 553 ⟨.s88, elevenBitHost⟩ = [.absorb 5 0x61, .final 3 0xBF] := by
  decide +kernel

/-- Both clauses of `IsHashCommands` on a message that has a full block and a partial one. -/
theorem witness_hash_run_with_absorb :
    elevenBitHost.runs 553 ∧ elevenBitHost.fresh ∧
    IsHashCommands .s88 elevenBitHost.order [0x61, 0xA0] 11 (commandsTaken 553 ⟨.s88, elevenBitHost⟩) ∧
    (blocksTaken 553 ⟨.s88, elevenBitHost⟩).length = Variant.nb .s88 := by
  refine ⟨⟨rfl, by decide +kernel⟩, ⟨rfl, rfl, rfl, rfl, rfl⟩, ?_, by decide +kernel⟩
  rw [test_eleven_bit_commands]
  refine ⟨by decide, fun i hi => ?_, 3, 0xBF, by decide, by decide, by decide +kernel⟩
  obtain rfl : i = 0 := Nat.lt_one_iff.1 hi
  exact ⟨5, 0x61, by decide, by decide +kernel⟩

theorem witness_ports :
    ((coreAt .s88 .sqzOut).withPins (Pins.reset .s88)).pins.rst = true ∧
    (∀ x ∈ [Ctl.init, .absPerm, .sqzOut, .error], (coreAt .s88 x).wasReset = true ∧ (coreAt .s88 x).pins.rst = false) ∧
    (Pins.take .s88).rst = (Pins.offer .s88 (.rsv 0 0)).rst := by decide +kernel

/-- A state that meets the invariant and steps: the reset state with a command offered. -/
theorem witness_invariant : State.reset.Inv ∧ ∃ t, step (State.reset.withFetchWord 14 0x1841) = .next t := by
  refine ⟨?_, _, rfl⟩
  intro _
  constructor <;> first | decide +kernel | exact rfl

/-- A step that moves `ctl` and writes `S`, `lfsr`, `rnd`, `nout` or `err`, for each of them. -/
theorem witness_register_writers :
    (∃ d : CoreState .s88, step ⟨.s88, coreRound .s88 0⟩ = .next ⟨.s88, d⟩ ∧ (coreRound .s88 0).pins.rst = false ∧
      d.regs.rnd ≠ (coreRound .s88 0).regs.rnd ∧ d.regs.lfsr ≠ (coreRound .s88 0).regs.lfsr ∧
      d.regs.S.getLsbD 87 ≠ (coreRound .s88 0).regs.S.getLsbD 87) ∧
    (∃ d : CoreState .s88, step ⟨.s88, (coreOut .s88 10).withPins (Pins.take .s88)⟩ = .next ⟨.s88, d⟩ ∧
      d.regs.nout ≠ 10#5 ∧ d.regs.ctl ≠ .sqzOut) ∧
    (∃ d : CoreState .s88, step ⟨.s88, (coreAt .s88 .init).withPins (Pins.offer .s88 (.rsv 0 0))⟩ = .next ⟨.s88, d⟩ ∧
      d.regs.err ≠ .none) := by
  refine ⟨⟨_, rfl, ?_⟩, ⟨_, rfl, ?_⟩, ⟨_, rfl, ?_⟩⟩ <;> decide +kernel

end Sys2Proof.Machine
end

section
/-! SUPPORT. The numbers of a variant that its words hold, and the legality of a parameter set as rule R9 words it. -/

namespace Sys2Proof

theorem Variant.ny_mul_eight (v : Variant) : v.ny * 8 = v.b := Nat.div_mul_cancel v.eight_dvd_b

theorem Variant.eight_dvd_n (v : Variant) : 8 ∣ v.n := v.nb_mul_r ▸ v.eight_dvd_r.mul_left v.nb

theorem eq_two_pow_log2_iff (n : Nat) : n = 2 ^ n.log2 ↔ ∃ k, n = 2 ^ k := by
  refine ⟨fun h => ⟨_, h⟩, ?_⟩
  rintro ⟨k, rfl⟩
  rw [Nat.log2_two_pow]

/-- The conditions of rule R9 in words. -/
theorem ParamSet.legal_iff (p : ParamSet) :
    p.legal = true ↔ 8 ∣ p.b ∧ 8 ∣ p.r ∧ (∃ k, p.r = 2 ^ k) ∧ 0 < p.r ∧ p.r < p.b ∧ p.r ∣ p.b ∧ p.r ∣ p.n ∧
      1 ≤ p.rounds ∧ 1 ≤ p.w ∧ p.w ≤ 8 ∧ p.lfsrInit ≠ 0 := by
  simp [ParamSet.legal, Nat.dvd_iff_mod_eq_zero, eq_two_pow_log2_iff, and_assoc]

end Sys2Proof
end

section
/-! SUPPORT. Runs cut in two, and one permutation over its edges (rules R83 to R87). -/

namespace Sys2Proof.Machine

variable {v : Variant}

/-! ### Runs -/

theorem run_succ_of_step {s t : State} (h : step s = .next t) (k : Nat) : run (k + 1) s = run k t := by
  simp [run, h]

/-- The edges after the first `j` run from the state that those reach. -/
theorem run_add {s t : State} {j : Nat} (h : run j s = .next t) (k : Nat) : run (j + k) s = run k t := by
  induction j generalizing s with
  | zero =>
    obtain rfl : s = t := by injection h
    rw [Nat.zero_add]
  | succ j ih =>
    cases hs : step s with
    | next u =>
      rw [run_succ_of_step hs] at h
      rw [Nat.succ_add, run_succ_of_step hs, ih h]
    | fault f => simp [run, hs] at h
    | refused x => simp [run, hs] at h

theorem run_one (s : State) : run 1 s = step s := by
  unfold run
  cases step s <;> rfl

theorem CoreState.runs_add {c : CoreState v} {j k : Nat} :
    c.runs (j + k) ↔ c.runs j ∧ (c.elapse j).runs k := by
  simp only [CoreState.runs, List.take_add, List.forall_mem_append, CoreState.elapse_wasReset, CoreState.elapse_host]
  tauto

theorem CoreState.rst_of_runs_one {c : CoreState v} (h : c.runs 1) : c.pins.rst = false := by
  obtain ⟨-, hr⟩ := h
  cases hh : c.host with
  | nil => simp [CoreState.pins, hh, Pins.idle]
  | cons p ps => simpa [CoreState.pins, hh] using hr p (by simp [hh])

/-- `runs` reads nothing of the registers. -/
@[simp] theorem CoreState.runs_withRegs {c : CoreState v} {g : Regs v} {k : Nat} :
    (c.withRegs g).runs k ↔ c.runs k := Iff.rfl

theorem CoreState.elapse_one (c : CoreState v) : c.elapse 1 = c.tick := (c.tick_elapse 0).symm

theorem CoreState.elapse_tick (c : CoreState v) (k : Nat) : (c.elapse k).tick = c.elapse (k + 1) := by
  simp [CoreState.tick, CoreState.elapse, Nat.add_assoc]

/-! ### The edges of one permutation -/

/-- A permutation has just been started (rule R84). -/
structure Regs.PermStarted (g : Regs v) : Prop where
  busy : g.ctl.busy = true
  rnd : g.rnd = 0#v.w
  lfsr : g.lfsr = ctr v 0

/-- The registers before round `t` of a permutation started on `g`. -/
def Regs.afterRounds (g : Regs v) (t : Nat) : Regs v :=
  { g with S := rounds v g.S t, lfsr := ctr v t, rnd := BitVec.ofNat v.w t }

@[simp] theorem Regs.afterRounds_ctl (g : Regs v) (t : Nat) : (g.afterRounds t).ctl = g.ctl := rfl

theorem Regs.PermStarted.afterRounds_zero {g : Regs v} (h : g.PermStarted) : g.afterRounds 0 = g := by
  obtain ⟨S, lfsr, rnd, nout, ctl, err⟩ := g
  obtain ⟨-, rfl, rfl⟩ := h
  rfl

/-- Every round index of a permutation fits the register (rule R23). -/
theorem Regs.afterRounds_rnd_toNat (g : Regs v) {t : Nat} (ht : t < v.rounds) : (g.afterRounds t).rnd.toNat = t :=
  BitVec.toNat_ofNat t v.w ▸ Nat.mod_eq_of_lt (ht.trans v.rounds_lt_two_pow_w)

theorem Regs.roundStep_afterRounds (g : Regs v) {t : Nat} (ht : t + 1 < v.rounds) :
    (g.afterRounds t).roundStep = g.afterRounds (t + 1) := by
  have hr := g.afterRounds_rnd_toNat (Nat.lt_of_succ_lt ht)
  obtain ⟨hlast, -⟩ | ⟨-, e⟩ := (g.afterRounds t).roundStep_cases
  · omega
  · rw [e]
    simp [Regs.afterRounds, rounds_succ, ctr_succ, BitVec.ofNat_add]

theorem Regs.roundStep_afterRounds_last (g : Regs v) {t : Nat} (ht : t + 1 = v.rounds) :
    (g.afterRounds t).roundStep = g.completePermutation := by
  have hr := g.afterRounds_rnd_toNat (t := t) (by omega)
  obtain ⟨-, e⟩ | ⟨hnot, -⟩ := (g.afterRounds t).roundStep_cases
  · rw [e]
    simp [Regs.afterRounds, Regs.completePermutation, perm_eq, ← ht, rounds_succ, ctr_succ]
  · omega

/-- While a permutation runs, an edge is its round step. -/
theorem step_of_busy {c : CoreState v} (hw : c.wasReset = true) (hr : c.pins.rst = false)
    (hb : c.regs.ctl.busy = true) : step ⟨v, c⟩ = .next ⟨v, c.tick.withRegs c.regs.roundStep⟩ := by
  rw [step_of_wasReset hw]
  simp [CoreState.next, hr, hb]

/-- One more edge of a permutation that is before round `t`. -/
theorem step_afterRounds {c : CoreState v} (hs : c.regs.PermStarted) {t : Nat} (hr : (c.elapse t).runs 1) :
    step ⟨v, (c.elapse t).withRegs (c.regs.afterRounds t)⟩ =
      .next ⟨v, (c.elapse (t + 1)).withRegs (c.regs.afterRounds t).roundStep⟩ := by
  have hedge := step_of_busy (c := (c.elapse t).withRegs (c.regs.afterRounds t)) hr.1 (CoreState.rst_of_runs_one hr)
    (by simp [hs.busy])
  rw [hedge, ← CoreState.elapse_tick]
  rfl

/-- A permutation just started is before its round `t` after `t` edges (rule R85). -/
theorem run_afterRounds {c : CoreState v} (hs : c.regs.PermStarted) {t : Nat} (ht : t < v.rounds) (hr : c.runs t) :
    run t ⟨v, c⟩ = .next ⟨v, (c.elapse t).withRegs (c.regs.afterRounds t)⟩ := by
  induction t with
  | zero => simp [run, hs.afterRounds_zero]
  | succ t ih =>
    obtain ⟨hrt, hr1⟩ := CoreState.runs_add.1 hr
    rw [run_add (ih (Nat.lt_of_succ_lt ht) hrt), run_one, step_afterRounds hs hr1, Regs.roundStep_afterRounds _ ht]

/-- A permutation just started is completed after `R` edges (rules R86, R87). -/
theorem run_completePermutation {c : CoreState v} (hs : c.regs.PermStarted) (hr : c.runs v.rounds) :
    run v.rounds ⟨v, c⟩ = .next ⟨v, (c.elapse v.rounds).withRegs c.regs.completePermutation⟩ := by
  obtain ⟨t, ht⟩ : ∃ t, v.rounds = t + 1 := Nat.exists_eq_add_one.2 v.rounds_pos
  rw [ht] at hr ⊢
  obtain ⟨hrt, hr1⟩ := CoreState.runs_add.1 hr
  rw [run_add (run_afterRounds hs (by omega) hrt), run_one, step_afterRounds hs hr1,
    Regs.roundStep_afterRounds_last _ ht.symm]

end Sys2Proof.Machine
end

section
/-! SUPPORT. The two kinds of transfer (rules R51, R57), and the permutation that one may start. -/

namespace Sys2Proof.Machine

variable {v : Variant}

/-! ### What a transfer starts -/

theorem Regs.absorbBlock_permStarted (g : Regs v) (d : BitVec v.r) {x : Ctl} (hx : x.busy = true) :
    (g.absorbBlock d x).PermStarted := ⟨hx, rfl, rfl⟩

/-- Of the ways out of the dispatch that `ABSORB` and `FINAL` share, only the command's own effect starts a
permutation. -/
theorem Regs.blockCommand_permStarted {g : Regs v} {f : Regs v → Regs v} (hg : g.ctl.busy = false)
    (hf : (f g).ctl.busy = true → (f g).PermStarted) (h : (g.blockCommand f).ctl.busy = true) :
    (g.blockCommand f).PermStarted := by
  obtain ⟨-, e⟩ | ⟨-, e⟩ | ⟨-, -, e⟩ := g.blockCommand_cases f <;> rw [e] at h ⊢
  · simp [hg] at h
  · simp [Ctl.busy] at h
  · exact hf h

/-- A command transferred where the core is not busy either leaves it so or starts a permutation (rules R100 to R102,
R124). -/
theorem commandEffect_permStarted (o : BitOrder) (i : Instr) {g : Regs v} (hg : g.ctl.busy = false)
    (h : (commandEffect o i g).ctl.busy = true) : (commandEffect o i g).PermStarted := by
  cases i with
  | init len data => simp [commandEffect, Ctl.busy] at h
  | absorb len data => exact Regs.blockCommand_permStarted hg (fun _ => g.absorbBlock_permStarted _ rfl) h
  | final len data =>
    refine Regs.blockCommand_permStarted hg ?_ h
    split
    · simp [Ctl.busy]
    · exact fun _ => g.absorbBlock_permStarted _ rfl
  | rsv len data =>
    by_cases he : g.ctl = .error <;> simp [commandEffect, he, Ctl.busy] at h

/-- An output transfer either ends the hash or starts a permutation (rule R103). -/
theorem Regs.outputTransfer_permStarted {g : Regs v} (h : g.outputTransfer.ctl.busy = true) :
    g.outputTransfer.PermStarted := by
  obtain ⟨-, e⟩ | ⟨-, e⟩ := g.outputTransfer_cases <;> rw [e] at h ⊢
  · simp [Ctl.busy] at h
  · exact ⟨rfl, rfl, rfl⟩

theorem Ctl.not_busy_of_accepts {x : Ctl} (h : x.accepts = true) : x.busy = false := by
  cases x <;> simp_all [Ctl.accepts, Ctl.busy]

/-! ### The edge of a transfer -/

theorem CoreState.commandTaken_eq_some {c : CoreState v} {i : Instr} :
    c.commandTaken = some i ↔ c.cmdXfer = true ∧ c.offered = i := by
  simp [CoreState.commandTaken]

theorem CoreState.blockTaken_eq_some {c : CoreState v} {x : Block} :
    c.blockTaken = some x ↔ c.outXfer = true ∧ c.ports.outData = x := by
  simp [CoreState.blockTaken]

/-- The guards of a command transfer (rules R51, R96). -/
theorem CoreState.cmdXfer_iff {c : CoreState v} (hw : c.wasReset = true) :
    c.cmdXfer = true ↔ c.pins.rst = false ∧ c.pins.cmdValid = true ∧ c.regs.ctl.accepts = true := by
  simp [CoreState.cmdXfer_eq hw, and_assoc]

/-- The guards of an output transfer (rules R57, R98). -/
theorem CoreState.outXfer_iff {c : CoreState v} (hw : c.wasReset = true) :
    c.outXfer = true ↔ c.pins.rst = false ∧ c.regs.ctl = .sqzOut ∧ c.pins.outReady = true := by
  simp [CoreState.outXfer_eq hw, and_assoc]

theorem exec_of_accepts {c : CoreState v} (h : c.regs.ctl.accepts = true) (i : Instr) :
    exec i ⟨v, c⟩ = .next ⟨v, c.withRegs (commandEffect c.order i c.regs)⟩ := by
  simp [exec_mk, CoreState.onTransfer, h]

theorem transact_of_exec {c d : CoreState v} {i : Instr} (h : exec i ⟨v, c⟩ = .next ⟨v, d⟩) :
    transact i ⟨v, c⟩ = .next ⟨v, d.settle⟩ := by
  simp [transact, h]

/-- The edge of a command transfer. -/
theorem step_of_cmdXfer {c : CoreState v} (hw : c.wasReset = true) (h : c.cmdXfer = true) :
    step ⟨v, c⟩ = .next ⟨v, c.tick.withRegs (commandEffect c.order c.offered c.regs)⟩ := by
  obtain ⟨hrst, -, ha⟩ := (CoreState.cmdXfer_iff hw).1 h
  have hout : c.outXfer = false := by
    rw [CoreState.outXfer_eq hw]
    cases hc : c.regs.ctl <;> simp_all [Ctl.accepts]
  rw [step_of_wasReset hw]
  simp [CoreState.next, hrst, Ctl.not_busy_of_accepts ha, hout, h, CoreState.onTransfer, ha]

/-- The edge of an output transfer. -/
theorem step_of_outXfer {c : CoreState v} (hw : c.wasReset = true) (h : c.outXfer = true) :
    step ⟨v, c⟩ = .next ⟨v, c.tick.withRegs c.regs.outputTransfer⟩ := by
  obtain ⟨hrst, hc, -⟩ := (CoreState.outXfer_iff hw).1 h
  rw [step_of_wasReset hw]
  simp [CoreState.next, hrst, hc, Ctl.busy, h]

/-! ### A transfer over its edges -/

/-- A transfer that leaves the registers `g`, and the permutation it starts if it starts one, over the edges of rule
R149. -/
theorem run_transferEdges {c : CoreState v} {g : Regs v} (hstep : step ⟨v, c⟩ = .next ⟨v, c.tick.withRegs g⟩)
    (hs : g.ctl.busy = true → g.PermStarted) (hr : c.runs (c.withRegs g).transferEdges) :
    run (c.withRegs g).transferEdges ⟨v, c⟩ =
      .next ⟨v, (c.withRegs g).settle.elapse (c.withRegs g).transferEdges⟩ := by
  cases hb : g.ctl.busy with
  | false =>
    have he : (c.withRegs g).transferEdges = 1 := by simp [CoreState.transferEdges, hb]
    have hsettle : (c.withRegs g).settle = c.withRegs g := by simp [CoreState.settle, hb]
    rw [he, hsettle, run_one, hstep, ← CoreState.elapse_tick]
    rfl
  | true =>
    have he : (c.withRegs g).transferEdges = 1 + v.rounds := by simp [CoreState.transferEdges, hb]
    have hsettle : (c.withRegs g).settle = c.withRegs g.completePermutation := by simp [CoreState.settle, hb]
    rw [he] at hr ⊢
    have hrun : (c.tick.withRegs g).runs v.rounds := by
      rw [CoreState.runs_withRegs, ← CoreState.elapse_one]
      exact (CoreState.runs_add.1 hr).2
    rw [hsettle, run_add ((run_one _).trans hstep), run_completePermutation (hs hb) hrun, Nat.add_comm,
      ← CoreState.tick_elapse]
    rfl

end Sys2Proof.Machine
end

section
/-! SUPPORT. The machine that a parameter set builds (rules R9, R132), and the length of a digest. -/

namespace Sys2Proof.Machine

theorem elaborate_eq_illegal_iff (p : ParamSet) (o : BitOrder) (g : (v : Variant) → Regs v) :
    elaborate p o g = .refused .illegalParameterSet ↔ p.legal = false := by
  unfold elaborate
  cases p.legal
  · simp
  · cases Variant.ofParams? p <;> simp

/-- Each row of the table of rule R7 is legal and names its own variant, so its machine is built. -/
theorem elaborate_params (v : Variant) (o : BitOrder) (g : (v : Variant) → Regs v) :
    elaborate v.params o g = .next ⟨v, CoreState.powerUp o (g v) []⟩ := by
  have hlegal : v.params.legal = true := by cases v <;> decide
  have hname : Variant.ofParams? v.params = some v := by cases v <;> decide
  simp [elaborate, hlegal, hname]

theorem length_spongentHash (v : Variant) (o : BitOrder) (M : List Byte) (L : Nat) :
    (spongentHash v o M L).length = v.n / 8 := by
  simp [spongentHash, digestOf]

end Sys2Proof.Machine
end

section
/-! CERTIFICATE. The statements of 00_scope.md. -/

namespace Sys2Proof.Machine

/-- Settles O46: a transfer leaves the core idle or starts a permutation, and `run_transferEdges` follows it from there. -/
theorem transactionsRefineEdges : Obligations.TransactionsRefineEdges := by
  refine ⟨fun v c i hw hi => ?_, fun v c x hw hx hr => ?_⟩
  · obtain ⟨hcmd, rfl⟩ := CoreState.commandTaken_eq_some.1 hi
    obtain ⟨-, -, ha⟩ := (CoreState.cmdXfer_iff hw).1 hcmd
    have hexec := exec_of_accepts ha c.offered
    exact ⟨_, _, hexec, transact_of_exec hexec, run_transferEdges (step_of_cmdXfer hw hcmd)
      (commandEffect_permStarted c.order c.offered (Ctl.not_busy_of_accepts ha))⟩
  · obtain ⟨hout, -⟩ := CoreState.blockTaken_eq_some.1 hx
    exact run_transferEdges (step_of_outXfer hw hout) Regs.outputTransfer_permStarted hr

/-- Settles O59: refused as illegal is not legal, and legal is the conditions of rule R9. -/
theorem illegalParameterSetsBuildNoMachine : Obligations.IllegalParameterSetsBuildNoMachine := by
  refine fun o g => ⟨fun p => ?_, fun v => ⟨elaborate_params v o g, by cases v <;> decide⟩⟩
  rw [elaborate_eq_illegal_iff, ← ParamSet.legal_iff, Bool.not_eq_true]

/-- Settles O58, by the cases of a step. -/
theorem noStepChangesTheBuild : Obligations.NoStepChangesTheBuild := by
  intro s t h
  obtain ⟨v, c, d, rfl, rfl, hd⟩ := step_cases h
  obtain ⟨-, rfl⟩ | ⟨-, hw, -, rfl⟩ | ⟨-, hw, -, -, rfl⟩ | ⟨-, hw, -, -, rfl⟩ | ⟨-, hw, -, -, -, rfl⟩ := hd
  · exact ⟨rfl, rfl, rfl, rfl⟩
  all_goals exact ⟨rfl, rfl, rfl, hw⟩

/-- Settles O60, from the table's numbers. -/
theorem widthsHoldTheCounters : Obligations.WidthsHoldTheCounters := by
  refine ⟨fun v => ⟨v.nb_mul_r, v.two_pow_lw, v.nn_mul_four, v.ny_mul_eight, v.rounds_lt_two_pow_w.le,
    v.nb_le_16.trans_lt (by decide)⟩, fun v o M L => ?_⟩
  rw [length_spongentHash, Nat.mul_div_cancel' v.eight_dvd_n]

end Sys2Proof.Machine
end

section
/-! SUPPORT. What each event at an edge writes and leaves unchanged (rules R19, R32, R127). -/

namespace Sys2Proof.Machine

variable {v : Variant}

/-! ### The control codes -/

theorem Ctl.accepts_iff {x : Ctl} : x.accepts = true ↔ x = .init ∨ x = .absWait ∨ x = .done ∨ x = .error := by
  cases x <;> simp [Ctl.accepts]

theorem Ctl.busy_iff {x : Ctl} : x.busy = true ↔ x = .absPerm ∨ x = .finPerm ∨ x = .sqzPerm := by
  cases x <;> simp [Ctl.busy]

/-! ### The registers no round step and no output transfer writes -/

@[simp] theorem Regs.roundStep_nout (g : Regs v) : g.roundStep.nout = g.nout := by
  obtain ⟨-, e⟩ | ⟨-, e⟩ := g.roundStep_cases <;> rw [e]

@[simp] theorem Regs.roundStep_err (g : Regs v) : g.roundStep.err = g.err := by
  obtain ⟨-, e⟩ | ⟨-, e⟩ := g.roundStep_cases <;> rw [e]

@[simp] theorem Regs.outputTransfer_S (g : Regs v) : g.outputTransfer.S = g.S := by
  obtain ⟨-, e⟩ | ⟨-, e⟩ := g.outputTransfer_cases <;> rw [e]
  rfl

@[simp] theorem Regs.outputTransfer_err (g : Regs v) : g.outputTransfer.err = g.err := by
  obtain ⟨-, e⟩ | ⟨-, e⟩ := g.outputTransfer_cases <;> rw [e]
  rfl

/-! ### What a transferred command can do -/

theorem commandEffect_init {i : Instr} (hi : i.op = 0b00#2) (o : BitOrder) (g : Regs v) :
    commandEffect o i g = g.returnToInit := by
  cases i with
  | init len data => rfl
  | absorb len data | final len data | rsv len data => simp [Instr.op] at hi

/-- The reserved code is ignored or rejected, and neither writes the datapath registers (rules R124, R128). -/
theorem commandEffect_reserved {i : Instr} (hi : i.op = 0b11#2) (o : BitOrder) (g : Regs v) :
    (commandEffect o i g).S = g.S ∧ (commandEffect o i g).lfsr = g.lfsr ∧ (commandEffect o i g).rnd = g.rnd := by
  cases i with
  | init len data | absorb len data | final len data => simp [Instr.op] at hi
  | rsv len data => by_cases he : g.ctl = .error <;> simp [commandEffect, he]

/-- The registers that a command other than `INIT` can leave: it is ignored in `ERROR`, is rejected, or absorbs a block
(rules R101, R102, R124, R128). -/
inductive Regs.CommandOutcome (g : Regs v) : Regs v → Prop
  | ignored (hc : g.ctl = .error) : CommandOutcome g g
  | rejected {code : Err} (hcode : code ≠ .none) : CommandOutcome g (g.raiseError code)
  | absorbed (he : g.ctl ≠ .error) (hd : g.ctl ≠ .done) (d : BitVec v.r) {x : Ctl}
      (hx : x = .absPerm ∨ x = .finPerm) : CommandOutcome g (g.absorbBlock d x)

theorem Regs.blockCommand_outcome (g : Regs v) {f : Regs v → Regs v}
    (hf : g.ctl ≠ .error → g.ctl ≠ .done → g.CommandOutcome (f g)) : g.CommandOutcome (g.blockCommand f) := by
  obtain ⟨he, e⟩ | ⟨-, e⟩ | ⟨he, hd, e⟩ := g.blockCommand_cases f <;> rw [e]
  · exact .ignored he
  · exact .rejected (by decide)
  · exact hf he hd

/-- The inversion of a command other than `INIT`. -/
theorem commandEffect_outcome {i : Instr} (hi : i.op ≠ 0b00#2) (o : BitOrder) (g : Regs v) :
    g.CommandOutcome (commandEffect o i g) := by
  unfold commandEffect
  cases i with
  | init len data => exact absurd rfl hi
  | absorb len data => exact g.blockCommand_outcome fun he hd => .absorbed he hd _ (.inl rfl)
  | final len data =>
    refine g.blockCommand_outcome fun he hd => ?_
    split
    · exact .rejected (by decide)
    · exact .absorbed he hd _ (.inr rfl)
  | rsv len data =>
    dsimp only
    split_ifs with he
    · exact .ignored he
    · exact .rejected (by decide)

/-- No bit of a block reaches the capacity (rule R19). -/
@[simp] theorem getLsbD_zextBlock (d : BitVec v.r) (j : Nat) : (zextBlock v d).getLsbD j = d.getLsbD j := by
  have hb : d.getLsbD j = true → j < v.b := fun h => (BitVec.lt_of_getLsbD h).trans v.r_lt_b
  cases hd : d.getLsbD j <;> simp_all [zextBlock]

namespace Regs.CommandOutcome

variable {g g' : Regs v}

theorem nout_eq (h : g.CommandOutcome g') : g'.nout = g.nout := by cases h <;> rfl

theorem capacity_eq (h : g.CommandOutcome g') {j : Nat} (hj : v.r ≤ j) : g'.S.getLsbD j = g.S.getLsbD j := by
  cases h with
  | ignored | rejected => rfl
  | absorbed he hd d hx => simp [BitVec.getLsbD_of_ge d j hj]

theorem ctl_of_err_ne (h : g.CommandOutcome g') (he : g'.err ≠ g.err) : g'.ctl = .error := by
  cases h with
  | ignored hc => exact hc
  | rejected => rfl
  | absorbed => exact absurd rfl he

end Regs.CommandOutcome

/-! ### Bytes of a block and of the state (rules R21, R40) -/

theorem byteOf_xor {m : Nat} (x y : BitVec m) (j : Nat) : byteOf (x ^^^ y) j = byteOf x j ^^^ byteOf y j :=
  BitVec.extractLsb'_xor

theorem byteOf_zextBlock_blockOperand (data : Block) {j : Nat} (hj : j < v.r / 8) :
    byteOf (zextBlock v (blockOperand v data)) j = byteOf data j := by
  refine BitVec.eq_of_getLsbD_eq fun i hi => ?_
  have hr : 8 * j + i < v.r := by omega
  simp [blockOperand, hr]

theorem byteOf_zextBlock_of_ge (d : BitVec v.r) {j : Nat} (hj : v.r / 8 ≤ j) : byteOf (zextBlock v d) j = 0#8 := by
  refine BitVec.eq_of_getLsbD_eq fun i hi => ?_
  have hr : v.r ≤ 8 * j + i := by
    have := Nat.div_mul_cancel v.eight_dvd_r
    omega
  simp [BitVec.getLsbD_of_ge d _ hr]

theorem commandEffect_absorb {g : Regs v} (hc : g.ctl = .init ∨ g.ctl = .absWait) (o : BitOrder) (len : LenWord)
    (data : Block) :
    commandEffect o (.absorb len data) g = g.absorbBlock (blockOperand v data) .absPerm := by
  obtain hc | hc := hc <;> simp [commandEffect, Regs.blockCommand, hc]

/-! ### The output ports in operation -/

theorem CoreState.ports_eq_runPorts {c : CoreState v} (hw : c.wasReset = true) (hr : c.pins.rst = false) :
    c.ports = runPorts c.regs c.freeData := by
  simp [CoreState.ports, CoreState.portsAt, hw, hr]

/-- A core that accepts a command presents no block, so no edge has both transfers (rules R96, R97). -/
theorem CoreState.not_cmdXfer_and_outXfer {c : CoreState v} (hw : c.wasReset = true) :
    ¬ (c.cmdXfer = true ∧ c.outXfer = true) := by
  rintro ⟨hcmd, hout⟩
  obtain ⟨-, -, ha⟩ := (CoreState.cmdXfer_iff hw).1 hcmd
  obtain ⟨-, hc, -⟩ := (CoreState.outXfer_iff hw).1 hout
  simp [hc, Ctl.accepts] at ha

end Sys2Proof.Machine
end

section
/-! SUPPORT. The register invariant of rule R37: reset meets it, and each event at an edge keeps it. -/

namespace Sys2Proof.Machine

variable {v : Variant} {g : Regs v}

/-! ### Two ways to meet the invariant -/

/-- Where no permutation runs, `lfsr` may hold anything. -/
theorem Regs.inv_of_idle (hb : g.ctl.busy = false) (hr : g.rnd = 0#v.w) (hn : g.noutInRange)
    (he : g.err ≠ .none ↔ g.ctl = .error) : g.Inv where
  rnd_le := by simp [hr]
  rnd_idle := fun _ => hr
  lfsr_busy := by simp [hb]
  nout_range := hn
  err_iff := he

theorem Regs.PermStarted.inv (h : g.PermStarted) (hn : g.noutInRange) (he : g.err ≠ .none ↔ g.ctl = .error) :
    g.Inv where
  rnd_le := by simp [h.rnd]
  rnd_idle := by simp [h.busy]
  lfsr_busy := fun _ => by simpa [h.rnd] using h.lfsr
  nout_range := hn
  err_iff := he

/-! ### The range of `nout` -/

theorem Regs.noutInRange.le_nb (h : g.noutInRange) : g.nout.toNat ≤ v.nb := by
  unfold Regs.noutInRange at h
  split at h <;> omega

/-- Before the squeeze no block has been handed out. -/
theorem Regs.noutInRange.eq_zero (h : g.noutInRange) (hc : g.ctl = .init ∨ g.ctl = .absWait) : g.nout.toNat = 0 := by
  obtain hc | hc := hc <;> simpa only [Regs.noutInRange, hc] using h

/-- Where a permutation leads, the range of `nout` contains the range it had (rule R86). -/
theorem Regs.noutInRange.succ {g' : Regs v} (h : g.noutInRange) (hb : g.ctl.busy = true) (hc : g'.ctl = g.ctl.succ)
    (hn : g'.nout = g.nout) : g'.noutInRange := by
  obtain h' | h' | h' := Ctl.busy_iff.1 hb <;> simp_all [Regs.noutInRange, Ctl.succ]

theorem Ctl.succ_of_busy {x : Ctl} (hb : x.busy = true) : x.succ.busy = false ∧ x.succ ≠ .error := by
  obtain rfl | rfl | rfl := Ctl.busy_iff.1 hb <;> decide

/-- The counters take their next value without wrapping (rules R23, R24). -/
theorem Regs.nout_succ_toNat (g : Regs v) (hn : g.nout.toNat < v.nb) : (g.nout + 1#5).toNat = g.nout.toNat + 1 := by
  have hnb := v.nb_le_16
  exact BitVec.toNat_add_of_lt (show g.nout.toNat + 1 < 2 ^ 5 by omega)

theorem Regs.rnd_succ_toNat (g : Regs v) (hr : g.rnd.toNat < v.rounds) : (g.rnd + 1#v.w).toNat = g.rnd.toNat + 1 := by
  have hw := v.rounds_lt_two_pow_w
  have hone : (1#v.w).toNat = 1 := BitVec.toNat_ofNat 1 v.w ▸ Nat.mod_eq_of_lt (Nat.one_lt_two_pow v.w_pos.ne')
  rw [BitVec.toNat_add_of_lt (by omega), hone]

/-! ### The events -/

theorem Regs.reset_inv : (Regs.reset v).Inv := Regs.inv_of_idle rfl rfl rfl (by simp)

theorem Regs.Inv.roundStep (h : g.Inv) (hb : g.ctl.busy = true) : g.roundStep.Inv := by
  have he : g.err = .none := by
    by_contra he
    simp [h.err_iff.1 he, Ctl.busy] at hb
  obtain ⟨-, e⟩ | ⟨hlast, e⟩ := g.roundStep_cases <;> rw [e]
  · obtain ⟨hidle, hctl⟩ := Ctl.succ_of_busy hb
    exact Regs.inv_of_idle hidle rfl (h.nout_range.succ hb rfl rfl) (by simp [he, hctl])
  · have hle := h.rnd_le
    have hrnd := g.rnd_succ_toNat (by omega)
    exact {
      rnd_le := by simp only [hrnd]; omega
      rnd_idle := by simp [hb]
      lfsr_busy := fun _ => by simp only [hrnd, h.lfsr_busy hb, ctr_succ]
      nout_range := h.nout_range
      err_iff := h.err_iff }

theorem Regs.Inv.outputTransfer (h : g.Inv) (hc : g.ctl = .sqzOut) : g.outputTransfer.Inv := by
  have hnb := v.ten_le_nb
  have hle : g.nout.toNat ≤ v.nb - 1 := by simpa only [Regs.noutInRange, hc] using h.nout_range
  have hnout := g.nout_succ_toNat (by omega)
  have he : g.err = .none := by simpa [hc] using h.err_iff
  obtain ⟨hlast, e⟩ | ⟨hnot, e⟩ := g.outputTransfer_cases <;> rw [e]
  · exact Regs.inv_of_idle rfl (h.rnd_idle (by simp [hc, Ctl.busy])) (by simp only [Regs.noutInRange]; omega)
      (by simp [he])
  · exact Regs.PermStarted.inv ⟨rfl, rfl, rfl⟩ (by simp only [Regs.noutInRange]; omega) (by simp [he])

theorem Regs.Inv.raiseError (h : g.Inv) (hb : g.ctl.busy = false) {code : Err} (hcode : code ≠ .none) :
    (g.raiseError code).Inv :=
  Regs.inv_of_idle rfl (h.rnd_idle hb) h.nout_range.le_nb (by simp [hcode])

theorem Regs.Inv.absorbBlock (h : g.Inv) (hc : g.ctl = .init ∨ g.ctl = .absWait) (d : BitVec v.r) {x : Ctl}
    (hx : x = .absPerm ∨ x = .finPerm) : (g.absorbBlock d x).Inv := by
  have hn := h.nout_range.eq_zero hc
  have he : g.err = .none := by obtain hc | hc := hc <;> simpa [hc] using h.err_iff
  obtain rfl | rfl := hx
  all_goals exact (g.absorbBlock_permStarted d rfl).inv hn (by simp [he])

theorem Regs.CommandOutcome.inv {g' : Regs v} (h : g.CommandOutcome g') (hinv : g.Inv) (ha : g.ctl.accepts = true) :
    g'.Inv := by
  cases h with
  | ignored => exact hinv
  | rejected hcode => exact hinv.raiseError (Ctl.not_busy_of_accepts ha) hcode
  | absorbed he hd d hx =>
    have hc := Ctl.accepts_iff.1 ha
    exact hinv.absorbBlock (by tauto) d hx

theorem Regs.Inv.commandEffect (h : g.Inv) (ha : g.ctl.accepts = true) (o : BitOrder) (i : Instr) :
    (commandEffect o i g).Inv := by
  by_cases hi : i.op = 0b00#2
  · rw [commandEffect_init hi]
    exact Regs.reset_inv
  · exact (commandEffect_outcome hi o g).inv h ha

end Sys2Proof.Machine
end

section
/-! CERTIFICATE. The statements of 10_state.md. -/

namespace Sys2Proof.Machine

/-- Settles O54, by the cases of a step: the event of each edge keeps the invariant of the registers. -/
theorem stepKeepsTheInvariant : Obligations.StepKeepsTheInvariant := by
  intro s t hinv h
  obtain ⟨v, c, d, rfl, rfl, hd⟩ := step_cases h
  obtain ⟨-, rfl⟩ | ⟨-, hw, hb, rfl⟩ | ⟨-, hw, hc, -, rfl⟩ | ⟨-, hw, ha, -, rfl⟩ | ⟨-, hw, -, -, -, rfl⟩ := hd
  all_goals intro _
  · exact Regs.reset_inv
  · exact (hinv hw).roundStep hb
  · exact (hinv hw).outputTransfer hc
  · exact (hinv hw).commandEffect ha c.order c.offered
  · exact hinv hw

/-- Settles O22: where the command is transferred, by the frame of its effect; elsewhere nothing changes. -/
theorem commandFrame : Obligations.CommandFrame := by
  refine fun v c i => ⟨_, exec_mk i c, ?_⟩
  obtain ⟨-, e⟩ | ⟨-, e⟩ := c.onTransfer_cases (commandEffect c.order i) <;> rw [e]
  · exact ⟨rfl, rfl, rfl, rfl,
      fun hi =>
        have hout := commandEffect_outcome hi c.order c.regs
        ⟨hout.nout_eq, fun _ => hout.capacity_eq, hout.ctl_of_err_ne⟩,
      fun hi => commandEffect_reserved hi c.order c.regs⟩
  · simp

/-- Settles O23, byte by byte of the exclusive-or with the extended block. -/
theorem absorbByteOrder : Obligations.AbsorbByteOrder := by
  intro v c len data hc
  have ha : c.regs.ctl.accepts = true := Ctl.accepts_iff.2 (by tauto)
  refine ⟨_, exec_of_accepts ha _, fun j hj => ?_, fun j hj => ?_⟩ <;>
    rw [commandEffect_absorb hc, CoreState.withRegs_regs, Regs.absorbBlock_S, byteOf_xor]
  · rw [byteOf_zextBlock_blockOperand data hj]
  · rw [byteOf_zextBlock_of_ge _ hj, BitVec.xor_zero]

/-- Settles O57, by the cases of a step: what the edge's event does not write is unchanged. -/
theorem registerWriters : Obligations.RegisterWriters := by
  intro v c d h hr
  obtain ⟨_, _, _, hs, ht, hd⟩ := step_cases h
  cases hs
  cases ht
  obtain ⟨hr', -⟩ | ⟨-, -, hb, rfl⟩ | ⟨-, -, -, hout, rfl⟩ | ⟨-, -, -, hcmd, rfl⟩ | ⟨-, -, -, -, -, rfl⟩ := hd
  · simp [hr] at hr'
  · simp [hb]
  · have hblock : c.blockTaken ≠ none := by simp [CoreState.blockTaken, hout]
    simp [hblock]
  · have htaken : c.commandTaken = some c.offered := CoreState.commandTaken_eq_some.2 ⟨hcmd, rfl⟩
    have hrsv := fun h => commandEffect_reserved (i := c.offered) h c.order c.regs
    have hout := fun h => commandEffect_outcome (i := c.offered) h c.order c.regs
    exact ⟨fun hS => .inr ⟨_, htaken, fun hi => hS (hrsv hi).1⟩,
      fun hlfsr => .inr (.inr ⟨_, htaken, fun hi => hlfsr (hrsv hi).2.1⟩),
      fun hrnd => .inr (.inr ⟨_, htaken, fun hi => hrnd (hrsv hi).2.2⟩),
      fun hnout => .inr ⟨_, htaken, by_contra fun hi => hnout (hout hi).nout_eq⟩,
      fun _ => .inr (.inr (by simp [htaken])),
      fun herr => ⟨_, htaken, or_iff_not_imp_left.2 fun hi => (hout hi).ctl_of_err_ne herr⟩,
      fun j hj hbit => .inr ⟨_, htaken, by_contra fun hi => hbit ((hout hi).capacity_eq hj)⟩⟩
  · simp

/-- Settles O10: `step_mk` names the one stop of a step and its guard. -/
theorem noStepBeforeTheFirstReset : Obligations.NoStepBeforeTheFirstReset := by
  intro v c
  rw [step_mk]
  by_cases h : c.pins.rst = false ∧ c.wasReset = false
  · simp [h]
  · rw [if_neg h, and_comm (a := c.wasReset = false)]
    exact ⟨iff_of_false (by simp) h, fun _ => ⟨_, rfl⟩⟩

/-- Settles O52, port by port. -/
theorem portsInOperation : Obligations.PortsInOperation := by
  intro v c hw hr
  rw [CoreState.ports_eq_runPorts hw hr]
  refine ⟨Ctl.accepts_iff, decide_eq_true_iff, decide_eq_true_iff, fun hout => ?_, Ctl.busy_iff, ?_, ?_,
    CoreState.not_cmdXfer_and_outXfer hw⟩
  · exact if_pos (decide_eq_true_iff.1 hout)
  · cases h : c.regs.ctl <;> simp [runPorts, h, Ctl.code]
  · cases h : c.regs.err <;> simp [runPorts, h, Err.code]

/-- Settles O55: `Regs.reset_inv`, for each build. -/
theorem resetMeetsTheInvariant : Obligations.ResetMeetsTheInvariant :=
  ⟨fun _ => Regs.reset_inv, fun _ _ => ⟨fun _ => Regs.reset_inv, rfl⟩⟩

end Sys2Proof.Machine
end

section
/-! SUPPORT. A block read by stream bits, and the padded message as a stream (rules R42, R89 to R91). -/

namespace Sys2Proof.Machine

variable {m r : Nat}

/-! ### Where stream bits sit in a block (rule R89) -/

/-- `pos` mirrors each byte or leaves it, so it is its own inverse. -/
@[simp] theorem pos_pos (o : BitOrder) (t : Nat) : pos o (pos o t) = t := by
  cases o with
  | msbFirst => simp only [pos]; omega
  | lsbFirst => rfl

theorem pos_injective (o : BitOrder) : Function.Injective (pos o) := Function.Involutive.injective (pos_pos o)

/-- A block of whole bytes contains the place of each of its stream bits. -/
theorem pos_lt (o : BitOrder) (hr : 8 ∣ r) {t : Nat} (ht : t < r) : pos o t < r := by
  cases o with
  | msbFirst => simp only [pos]; omega
  | lsbFirst => exact ht

/-- A block is determined by its stream bits. -/
theorem eq_of_getLsbD_pos_eq (o : BitOrder) (hr : 8 ∣ r) {x y : BitVec r}
    (h : ∀ t < r, x.getLsbD (pos o t) = y.getLsbD (pos o t)) : x = y := by
  refine BitVec.eq_of_getLsbD_eq fun j hj => ?_
  have hbit := h (pos o j) (pos_lt o hr hj)
  rwa [pos_pos] at hbit

/-! ### The stream bits of the blocks the model builds -/

/-- `getLsbD_scatter_of_injective` with the source bits past the last one written, which stay 0. -/
theorem getLsbD_scatter_apply {p : Nat → Nat} (inj : Function.Injective p) (f : Nat → Bool) (n : Nat) {t : Nat}
    (ht : p t < m) : (scatter m p f n).getLsbD (p t) = (decide (t < n) && f t) := by
  rw [Bool.eq_iff_iff, getLsbD_scatter]
  simp [ht, inj.eq_iff]

theorem getLsbD_padBlock_pos (o : BitOrder) (hr : 8 ∣ r) (d : BitVec r) {k t : Nat} (hk : k < r) (ht : t < r) :
    (padBlock o d k).getLsbD (pos o t) = if t < k then d.getLsbD (pos o t) else decide (t = k) := by
  have hone : (BitVec.twoPow r (pos o k)).getLsbD (pos o t) = decide (t = k) := by
    simp [BitVec.getLsbD_twoPow, pos_lt o hr hk, (pos_injective o).eq_iff, eq_comm]
  rw [padBlock, BitVec.getLsbD_or, getLsbD_scatter_apply (pos_injective o) _ _ (pos_lt o hr ht), hone]
  split_ifs with h
  · simp [h, h.ne]
  · simp [h]

theorem getLsbD_streamBlock_pos (o : BitOrder) (hr : 8 ∣ r) (bits : List Bool) (i : Nat) {t : Nat} (ht : t < r) :
    (streamBlock o r bits i).getLsbD (pos o t) = bits.getD (i * r + t) false := by
  rw [streamBlock, getLsbD_scatter_apply (pos_injective o) _ _ (pos_lt o hr ht), decide_eq_true ht, Bool.true_and]

/-! ### The padded message (rule R91) -/

@[simp] theorem length_messageBits (o : BitOrder) (M : List Byte) (L : Nat) : (messageBits o M L).length = L := by
  simp [messageBits]

theorem getD_messageBits (o : BitOrder) (M : List Byte) {L n : Nat} (hn : n < L) :
    (messageBits o M L).getD n false = messageBit o M n := by
  simp [messageBits, hn]

/-- The zeros of the padding fill the last block. -/
theorem length_pad (o : BitOrder) (hr : 0 < r) (M : List Byte) (L : Nat) :
    (pad o r M L).length = (L / r + 1) * r := by
  have hlast := Nat.mod_lt L hr
  have hL := Nat.div_add_mod' L r
  simp only [pad, List.length_append, List.length_cons, List.length_replicate, length_messageBits, Nat.succ_mul]
  omega

/-- Past its last bit the padded message reads as its padding's zeros do, so this holds at every `n`. -/
theorem getD_pad (o : BitOrder) (r : Nat) (M : List Byte) (L n : Nat) :
    (pad o r M L).getD n false = if n < L then messageBit o M n else decide (n = L) := by
  rw [pad]
  split_ifs with hn
  · rw [List.getD_append _ _ _ _ (by simpa using hn), getD_messageBits o M hn]
  · rw [List.getD_append_right _ _ _ _ (by simpa using hn), length_messageBits]
    obtain rfl | ⟨z, rfl⟩ : n = L ∨ ∃ z, n = L + (z + 1) := by
      obtain h | h := Nat.eq_or_lt_of_not_lt hn
      · exact .inl h
      · exact .inr (Nat.exists_eq_add_of_lt h)
    · simp
    · simp [List.getElem?_getD_replicate_default_eq]

/-- Rule R42 for a padded message: its stream bit `i·r + t` is stream bit `t` of block `i`. -/
theorem getLsbD_streamBlock_pad (o : BitOrder) (hr : 8 ∣ r) (M : List Byte) (L i : Nat) {t : Nat} (ht : t < r) :
    (streamBlock o r (pad o r M L) i).getLsbD (pos o t) =
      if i * r + t < L then messageBit o M (i * r + t) else decide (i * r + t = L) := by
  rw [getLsbD_streamBlock_pos o hr _ _ ht, getD_pad]

/-- A block before the last one ends inside the message. -/
theorem mul_add_lt_of_lt_div {L i t : Nat} (hi : i < L / r) (ht : t < r) : i * r + t < L := by
  have hblock : (i + 1) * r ≤ L := (Nat.le_div_iff_mul_le (Nat.zero_lt_of_lt ht)).1 hi
  rw [Nat.succ_mul] at hblock
  omega

/-- The last block of the padded message is the one `FINAL` builds (rules R90, R91). -/
theorem streamBlock_pad_last (o : BitOrder) (hr : 8 ∣ r) (hpos : 0 < r) (M : List Byte) (L : Nat) (d : BitVec r)
    (hd : ∀ t < L % r, d.getLsbD (pos o t) = messageBit o M (L / r * r + t)) :
    streamBlock o r (pad o r M L) (L / r) = padBlock o d (L % r) := by
  refine eq_of_getLsbD_pos_eq o hr fun t ht => ?_
  have hL := Nat.div_add_mod' L r
  have hlt : L / r * r + t < L ↔ t < L % r := by omega
  have heq : L / r * r + t = L ↔ t = L % r := by omega
  simp only [getLsbD_streamBlock_pad o hr M L _ ht, getLsbD_padBlock_pos o hr d (Nat.mod_lt L hpos) ht, hlt, heq]
  split_ifs with h
  · exact (hd t h).symm
  · rfl

end Sys2Proof.Machine
end

section
/-! CERTIFICATE. The statements of 20_memory.md. -/

namespace Sys2Proof.Machine

/-- Settles O39: the padded stream's length and bits, read block by block. -/
theorem paddedMessageBlocks : Obligations.PaddedMessageBlocks := by
  refine fun v o M L => ⟨length_pad o v.r_pos M L, fun i hi t ht => ?_,
    streamBlock_pad_last o v.eight_dvd_r v.r_pos M L⟩
  rw [getLsbD_streamBlock_pad o v.eight_dvd_r M L i ht, if_pos (mul_add_lt_of_lt_div hi ht)]

end Sys2Proof.Machine
end

section
/-! SUPPORT. The command word taken apart and packed again (rules R52, R53), and the operands a channel carries. -/

namespace Sys2Proof

variable {v : Variant}

/-! ### The command word -/

/-- The three fields are all of a command word (rule R52). -/
@[simp] theorem packWord_fields (cw : BitVec v.cww) : packWord (opField cw) (lenField cw) (dataField cw) = cw := by
  refine BitVec.eq_of_getLsbD_eq fun i hi => ?_
  have hc := v.cww_eq
  simp only [getLsbD_packWord, opField, lenField, dataField, BitVec.getLsbD_extractLsb']
  obtain h | ⟨h, h'⟩ | h : i < 2 ∨ (2 ≤ i ∧ i < v.lw + 3) ∨ v.lw + 3 ≤ i := by omega
  · have hl : ¬ v.lw + 3 ≤ i := by omega
    simp [h, hl]
  · have hd : ¬ v.lw + 3 ≤ i := by omega
    have ho : ¬ i < 2 := by omega
    have hlen : i - 2 < v.lw + 1 := by omega
    simp [h, ho, hlen, hd]
  · have ho : ¬ i < 2 := by omega
    have hlen : ¬ i - 2 < v.lw + 1 := by omega
    have hdata : i - (v.lw + 3) < v.r := by omega
    simp [h, ho, hlen, hdata]

/-! ### The decoder -/

/-- Every code of `op` is the code of one of the four commands, and the decoder answers that one (rule R53). -/
theorem decodeFields_cases (op : BitVec 2) (len : LenWord) (data : Block) :
    (op = 0b00#2 ∧ decodeFields op len data = .init len data) ∨
    (op = 0b01#2 ∧ decodeFields op len data = .absorb len data) ∨
    (op = 0b10#2 ∧ decodeFields op len data = .final len data) ∨
    (op = 0b11#2 ∧ decodeFields op len data = .rsv len data) := by
  have hop : op = 0b00#2 ∨ op = 0b01#2 ∨ op = 0b10#2 ∨ op = 0b11#2 := by decide +revert
  obtain rfl | rfl | rfl | rfl := hop <;> simp [decodeFields]

@[simp] theorem op_decodeFields (op : BitVec 2) (len : LenWord) (data : Block) :
    (decodeFields op len data).op = op := by
  obtain ⟨rfl, e⟩ | ⟨rfl, e⟩ | ⟨rfl, e⟩ | ⟨rfl, e⟩ := decodeFields_cases op len data <;> rw [e] <;> rfl

@[simp] theorem len_decodeFields (op : BitVec 2) (len : LenWord) (data : Block) :
    (decodeFields op len data).len = len := by
  obtain ⟨-, e⟩ | ⟨-, e⟩ | ⟨-, e⟩ | ⟨-, e⟩ := decodeFields_cases op len data <;> rw [e] <;> rfl

@[simp] theorem data_decodeFields (op : BitVec 2) (len : LenWord) (data : Block) :
    (decodeFields op len data).data = data := by
  obtain ⟨-, e⟩ | ⟨-, e⟩ | ⟨-, e⟩ | ⟨-, e⟩ := decodeFields_cases op len data <;> rw [e] <;> rfl

@[simp] theorem op_decode (cw : BitVec v.cww) : (decode v cw).op = opField cw := op_decodeFields _ _ _
@[simp] theorem len_decode (cw : BitVec v.cww) : (decode v cw).len = (lenField cw).setWidth 5 := len_decodeFields _ _ _
@[simp] theorem data_decode (cw : BitVec v.cww) : (decode v cw).data = (dataField cw).setWidth 16 :=
  data_decodeFields _ _ _

theorem decodeNat_eq_ok_iff {w : Nat} {i : Instr} :
    decodeNat v w = .ok i ↔ w < 2 ^ v.cww ∧ decode v (BitVec.ofNat v.cww w) = i := by
  by_cases hw : w < 2 ^ v.cww <;> simp [decodeNat, hw]

theorem decodeTableWord_eq_some_iff {nbits w : Nat} {i : Instr} :
    decodeTableWord nbits w = some i ↔ decodeNat Config.variant (w % 2 ^ nbits) = .ok i := by
  unfold decodeTableWord
  split <;> simp [*]

/-! ### Operands of the channel's width (rule R50) -/

theorem Instr.wf_iff {i : Instr} :
    i.wf v = true ↔ i.len.toNat < 2 ^ (v.lw + 1) ∧ i.data.toNat < 2 ^ v.r := by
  simp [Instr.wf, Instr.lenFits, Instr.dataFits]

/-- A value that fits a narrower channel passes through it whole. -/
theorem setWidth_setWidth_of_toNat_lt {m n : Nat} {x : BitVec m} (hx : x.toNat < 2 ^ n) :
    (x.setWidth n).setWidth m = x := by
  refine BitVec.eq_of_toNat_eq ?_
  rw [BitVec.toNat_setWidth, BitVec.toNat_setWidth, Nat.mod_eq_of_lt hx, Nat.mod_eq_of_lt x.isLt]

theorem toNat_setWidth_lt {m : Nat} (x : BitVec m) (n : Nat) : (x.setWidth n).toNat < 2 ^ m :=
  BitVec.toNat_setWidth n x ▸ (Nat.mod_le _ _).trans_lt x.isLt

theorem decode_encode {i : Instr} (hi : i.wf v = true) : decode v (encode v i) = i := by
  obtain ⟨hlen, hdata⟩ := Instr.wf_iff.1 hi
  simp only [decode, encode, opField_packWord, lenField_packWord, dataField_packWord,
    setWidth_setWidth_of_toNat_lt hlen, setWidth_setWidth_of_toNat_lt hdata, decodeFields_op]

/-- The operands of `Instr` are at least as wide as every channel's, so decoding loses no bit of them. -/
theorem encode_decode (cw : BitVec v.cww) : encode v (decode v cw) = cw := by
  have hlen : v.lw + 1 ≤ 5 := Nat.succ_le_succ v.lw_le_4
  simp [encode, BitVec.setWidth_setWidth_of_le, hlen, v.r_le_16]

theorem decode_wf (cw : BitVec v.cww) : (decode v cw).wf v = true :=
  Instr.wf_iff.2 ⟨len_decode cw ▸ toNat_setWidth_lt _ 5, data_decode cw ▸ toNat_setWidth_lt _ 16⟩

end Sys2Proof
end

section
/-! SUPPORT. Which inputs an edge reads (rules R51, R57, R97), and which operand bits a command reads (rules R54, R55,
R90). -/

namespace Sys2Proof.Machine

variable {v : Variant}

/-! ### The inputs of one edge -/

@[simp] theorem CoreState.withPins_tick (c : CoreState v) (p : Pins v) : (c.withPins p).tick = c.tick := rfl

/-- A step by the inputs of its edge: the events of rule R97 with the inputs that guard each (rules R51, R57, R96). -/
theorem step_withPins (c : CoreState v) (p : Pins v) :
    step ⟨v, c.withPins p⟩ =
      if p.rst then .next ⟨v, c.tick.resetEdge⟩
      else if c.wasReset = false then .fault .beforeFirstReset
      else if c.regs.ctl.busy then .next ⟨v, c.tick.withRegs c.regs.roundStep⟩
      else if c.regs.ctl = .sqzOut ∧ p.outReady = true then .next ⟨v, c.tick.withRegs c.regs.outputTransfer⟩
      else if p.cmdValid = true ∧ c.regs.ctl.accepts = true then exec (decode v p.commandWord) ⟨v, c.tick⟩
      else .next ⟨v, c.tick⟩ := by
  cases hr : p.rst with
  | true => simp [step, hr]
  | false =>
    cases hw : c.wasReset with
    | false => simp [step, hr, hw]
    | true =>
      have hout : (c.withPins p).outXfer = (!p.rst && decide (c.regs.ctl = .sqzOut) && p.outReady) :=
        CoreState.outXfer_eq hw
      have hcmd : (c.withPins p).cmdXfer = (!p.rst && p.cmdValid && c.regs.ctl.accepts) := CoreState.cmdXfer_eq hw
      simp [step, hr, hw, hout, hcmd, CoreState.roundEdge, CoreState.readEdge, CoreState.offered]

/-- The edge of a command transfer is the dispatch of the command on the channel (rule R99). -/
theorem step_eq_exec_of_cmdXfer {c : CoreState v} (hw : c.wasReset = true) (h : c.cmdXfer = true) :
    step ⟨v, c⟩ = exec c.offered ⟨v, c.tick⟩ := by
  have ha := ((CoreState.cmdXfer_iff hw).1 h).2.2
  rw [step_of_cmdXfer hw h, exec_of_accepts (c := c.tick) ha]
  rfl

/-- The inputs that offer a command word put that word on the channel. -/
@[simp] theorem Pins.commandWord_offerWord (cw : BitVec v.cww) : (Pins.offerWord v cw).commandWord = cw :=
  packWord_fields cw

theorem step_withPins_offerWord {c : CoreState v} (hw : c.wasReset = true) (ha : c.regs.ctl.accepts = true)
    (cw : BitVec v.cww) : step ⟨v, c.withPins (Pins.offerWord v cw)⟩ = exec (decode v cw) ⟨v, c.tick⟩ := by
  have hcmd : (c.withPins (Pins.offerWord v cw)).cmdXfer = true :=
    (CoreState.cmdXfer_iff (c := c.withPins _) hw).2 ⟨rfl, rfl, ha⟩
  simp [step_eq_exec_of_cmdXfer (c := c.withPins _) hw hcmd, CoreState.offered]

theorem State.withFetchWord_mk (c : CoreState v) (nbits w : Nat) :
    (State.mk v c).withFetchWord nbits w =
      ⟨v, c.withPins (Pins.offerWord v (BitVec.ofNat v.cww (w % 2 ^ nbits)))⟩ := rfl

/-! ### The operand bits `FINAL` reads -/

theorem scatter_congr {m n : Nat} {p : Nat → Nat} {f g : Nat → Bool} (h : ∀ t < n, f t = g t) :
    scatter m p f n = scatter m p g n := by
  induction n with
  | zero => rfl
  | succ n ih => rw [scatter, scatter, ih fun t ht => h t (by omega), h n (by omega)]

/-- The padded block holds the first `k` stream bits and no other bit of the data (rule R90). -/
theorem padBlock_congr {o : BitOrder} {r k : Nat} {d d' : BitVec r}
    (h : ∀ t < k, d.getLsbD (pos o t) = d'.getLsbD (pos o t)) : padBlock o d k = padBlock o d' k := by
  rw [padBlock, padBlock, scatter_congr h]

end Sys2Proof.Machine
end

section
/-! CERTIFICATE. The statements of 30_encoding.md. -/

namespace Sys2Proof.Machine

/-- Settles O1: the fields read back are the ones packed, and a well-formed operand passes the channel whole. -/
theorem decodeInvertsEncode : Obligations.DecodeInvertsEncode := fun _ _ => decode_encode

/-- Settles O2: the fields read from a word are all of it, and none is wider than the channel. -/
theorem encodeInvertsDecode : Obligations.EncodeInvertsDecode := fun _ cw => ⟨encode_decode cw, decode_wf cw⟩

/-- Settles O13, by the inputs that `step_withPins` reads. -/
theorem unsampledInputsHaveNoEffect : Obligations.UnsampledInputsHaveNoEffect := by
  refine fun v c p q hrst => ⟨fun hout hcmd => ?_, fun hc => ?_⟩ <;> rw [step_withPins, step_withPins]
  · have hp : ¬ (p.cmdValid = true ∧ c.regs.ctl.accepts = true) := by
      obtain ⟨h, -⟩ | h := hcmd <;> simp [h]
    have hq : ¬ (q.cmdValid = true ∧ c.regs.ctl.accepts = true) := by
      obtain ⟨-, h⟩ | h := hcmd <;> simp [h]
    simp only [hrst, hout, if_neg hp, if_neg hq]
  · simp only [hc, false_and, if_false]
    rfl

/-- Settles O21: the effect of a command does not name what it ignores, and `padBlock` reads only the first `len` stream
bits. -/
theorem ignoredOperandBitsChangeNothing : Obligations.IgnoredOperandBitsChangeNothing := by
  refine fun v c len len' data data' => ⟨rfl, rfl, rfl, fun h => ?_⟩
  have hpad : padBlock c.order (blockOperand v data) (lenOperand len) =
      padBlock c.order (blockOperand v data') (lenOperand len) :=
    padBlock_congr fun t ht => by simp only [blockOperand, BitVec.getLsbD_setWidth, h t ht]
  have heffect : commandEffect (v := v) c.order (.final len data) = commandEffect c.order (.final len data') :=
    funext fun g => by simp only [commandEffect, hpad]
  rw [exec_mk, exec_mk, heffect]

/-- Settles O3: each code excludes the other three, as each constructor does. -/
theorem opAloneSelectsTheCommand : Obligations.OpAloneSelectsTheCommand := by
  intro v cw
  obtain ⟨hop, e⟩ | ⟨hop, e⟩ | ⟨hop, e⟩ | ⟨hop, e⟩ :=
    decodeFields_cases (opField cw) ((lenField cw).setWidth 5) ((dataField cw).setWidth 16)
  all_goals
    simp only [decode, e]
    simp [hop]

/-- Settles O4, by evaluating the decoder on the ten words. -/
theorem specCommandWordsDecode : Obligations.SpecCommandWordsDecode := by
  unfold Obligations.SpecCommandWordsDecode
  decide

/-- Settles O5: the width is the decoder's one test. -/
theorem widerNumbersAreNoCommands : Obligations.WiderNumbersAreNoCommands :=
  fun _ _ => ⟨fun hw => if_pos hw, fun hw => if_neg hw.not_gt⟩

/-- Settles O6: the guards of a command transfer hold for both, and an offered command is read back by
`decode_encode`. -/
theorem stepRunsTheOfferedCommand : Obligations.StepRunsTheOfferedCommand := by
  refine fun v c hw ha => ⟨fun hrst hvalid => ?_, fun i hi => ?_⟩
  · exact step_eq_exec_of_cmdXfer hw ((CoreState.cmdXfer_iff hw).2 ⟨hrst, hvalid, ha⟩)
  · rw [Pins.offer, step_withPins_offerWord hw ha, decode_encode hi]

/-- Settles O7: `withFetchWord` offers the word, and the core of the reset state accepts it. -/
theorem fetchWordIsTheNextCommand : Obligations.FetchWordIsTheNextCommand := by
  refine ⟨fun v c nbits w hw ha hn _ => ?_, fun nbits w i hi => ?_⟩
  · rw [State.withFetchWord_mk, Nat.mod_eq_of_lt hn, step_withPins_offerWord hw ha]
  · obtain ⟨-, rfl⟩ := decodeNat_eq_ok_iff.1 (decodeTableWord_eq_some_iff.1 hi)
    exact step_withPins_offerWord (c := State.reset.core) rfl rfl _

/-- Settles O20: the four states are the ones in which no command is transferred. -/
theorem commandsNeedReady : Obligations.CommandsNeedReady := by
  intro v c i hc
  have ha : c.regs.ctl.accepts = false := by obtain hc | hc | hc | hc := hc <;> simp [hc, Ctl.accepts]
  simp [exec_mk, CoreState.onTransfer, ha]

end Sys2Proof.Machine
end

section
/-! SUPPORT. The substitution layer nibble by nibble (rules R63, R64, R65). -/

namespace Sys2Proof.Machine

/-! ### The S-box -/

/-- The inverse table of rule R65. -/
def sboxInvTable : List Nibble :=
  [0x3#4, 0x5#4, 0x4#4, 0xE#4, 0x6#4, 0xB#4, 0xF#4, 0x8#4, 0xA#4, 0xC#4, 0x9#4, 0x2#4, 0xD#4, 0x1#4, 0x0#4, 0x7#4]

/-- What the inverse table holds at `x` (rule R65). -/
def sboxInv (x : Nibble) : Nibble := sboxInvTable.getD x.toNat 0#4

theorem sboxInv_leftInverse : Function.LeftInverse sboxInv sbox := by decide

theorem sbox_ne_self : ∀ x : Nibble, sbox x ≠ x := by decide

theorem sbox_injective : Function.Injective sbox := sboxInv_leftInverse.injective

/-! ### The layer -/

variable {b : Nat}

/-- Nibble `k` of the layer's result depends on nibble `k` of the state alone (rule R64). -/
theorem nibble_sboxLayer (S : BitVec b) {k : Nat} (hk : k < b / 4) :
    nibble (sboxLayer S) k = sbox (nibble S k) := by
  refine BitVec.eq_of_getLsbD_eq fun i hi => ?_
  have hb : 4 * k + i < b := by omega
  have hdiv : (4 * k + i) / 4 = k := by omega
  have hmod : (4 * k + i) % 4 = i := by omega
  rw [getLsbD_nibble, sboxLayer, getLsbD_sboxNibbles, hdiv, hmod]
  simp [hi, hb, hk]

/-- A value of whole nibbles is determined by its nibbles (rule R20). -/
theorem eq_of_nibble_eq (hb : 4 ∣ b) {S T : BitVec b} (h : ∀ k < b / 4, nibble S k = nibble T k) : S = T := by
  refine BitVec.eq_of_getLsbD_eq fun i hi => ?_
  have hmod : i % 4 < 4 := by omega
  have hk := congrArg (·.getLsbD (i % 4)) (h (i / 4) (by omega))
  simpa only [getLsbD_nibble, hmod, decide_true, Bool.true_and, Nat.div_add_mod] using hk

theorem sboxLayer_injective (hb : 4 ∣ b) : Function.Injective (sboxLayer : BitVec b → BitVec b) := by
  refine fun S T h => eq_of_nibble_eq hb fun k hk => sbox_injective ?_
  calc sbox (nibble S k) = nibble (sboxLayer S) k := (nibble_sboxLayer S hk).symm
    _ = nibble (sboxLayer T) k := by rw [h]
    _ = sbox (nibble T k) := nibble_sboxLayer T hk

/-- On the finitely many `b`-bit states, injectivity suffices. -/
theorem sboxLayer_bijective (hb : 4 ∣ b) : Function.Bijective (sboxLayer : BitVec b → BitVec b) :=
  (sboxLayer_injective hb).bijective_of_finite

end Sys2Proof.Machine
end

section
/-! CERTIFICATE. The statements of 40_substitution_layer.md. -/

namespace Sys2Proof.Machine

/-- Settles O26: `NN` is the number of nibbles the layer substitutes. -/
theorem sboxLayerActsOnEveryNibble : Obligations.SboxLayerActsOnEveryNibble :=
  fun _ S _ hk => nibble_sboxLayer S hk

/-- Settles O27: the inverse table makes the S-box injective, hence the layer on the whole nibbles of each variant. -/
theorem sboxLayerIsBijective : Obligations.SboxLayerIsBijective :=
  ⟨fun x => ⟨sboxInv_leftInverse x, sbox_ne_self x⟩, fun v => sboxLayer_bijective (Dvd.intro_left _ v.nn_mul_four)⟩

end Sys2Proof.Machine
end

section
/-! SUPPORT. The diffusion layer as a permutation of the bit positions (rules R68, R69, R70). -/

namespace Sys2Proof

theorem Variant.four_dvd_b (v : Variant) : 4 ∣ v.b := Dvd.intro_left _ v.nn_mul_four

/-- The positions `0 .. b-2` that rules R68 and R70 move are those below the last one. -/
theorem Variant.lt_b_sub_one_of_le (v : Variant) {j : Nat} (hj : j ≤ v.b - 2) : j < v.b - 1 := by
  have hw := v.two_w_lt_b
  have hpos := v.w_pos
  omega

namespace Machine

variable {b j k q i : Nat}

/-! ### The position map -/

@[simp] theorem pBox_last (b : Nat) : pBox b (b - 1) = b - 1 := if_pos rfl

theorem pBox_of_lt (hj : j < b - 1) : pBox b j = j * (b / 4) % (b - 1) := if_neg hj.ne

/-- A remainder by `b-1` is a position, where there is a position that the map reduces. -/
theorem mod_sub_one_lt (hj : j < b - 1) (n : Nat) : n % (b - 1) < b :=
  (Nat.mod_lt n (Nat.zero_lt_of_lt hj)).trans_le (Nat.sub_le b 1)

/-- `4 · (b/4)` leaves remainder 1 by `b-1` (rule R70). -/
theorem four_mul_mul_quarter (hb : 4 ∣ b) (hpos : 0 < b) (k : Nat) : 4 * k * (b / 4) = (b - 1) * k + k := by
  calc 4 * k * (b / 4) = 4 * (b / 4) * k := Nat.mul_right_comm ..
    _ = (b - 1 + 1) * k := by rw [Nat.mul_div_cancel' hb, Nat.sub_add_cancel hpos]
    _ = (b - 1) * k + k := Nat.succ_mul ..

/-- The inverse wiring of rule R70 leads back to the position it gathers for. -/
theorem pBox_four_mul_mod (hb : 4 ∣ b) (hk : k < b - 1) : pBox b (4 * k % (b - 1)) = k := by
  rw [pBox_of_lt (Nat.mod_lt _ (Nat.zero_lt_of_lt hk)), Nat.mod_mul_mod, four_mul_mul_quarter hb (by omega),
    Nat.mul_add_mod, Nat.mod_eq_of_lt hk]

/-- Bit `i` of nibble `q` goes to position `q` of quarter `i` (rule R70). -/
theorem pBox_four_mul_add (hb : 4 ∣ b) (hq : q < b / 4) (hi : i < 4) : pBox b (4 * q + i) = i * (b / 4) + q := by
  obtain hlast | hlt : 4 * q + i = b - 1 ∨ 4 * q + i < b - 1 := by omega
  · obtain rfl : i = 3 := by omega
    rw [hlast, pBox_last]
    omega
  · have hbound : i * (b / 4) + q < b - 1 := by interval_cases i <;> omega
    rw [pBox_of_lt hlt, Nat.add_mul, four_mul_mul_quarter hb (by omega), Nat.add_assoc, Nat.mul_add_mod,
      Nat.add_comm q, Nat.mod_eq_of_lt hbound]

theorem pBox_lt (hj : j < b) : pBox b j < b := by
  obtain rfl | hlt : j = b - 1 ∨ j < b - 1 := by omega
  · rwa [pBox_last]
  · rw [pBox_of_lt hlt]
    exact mod_sub_one_lt hlt _

/-- No position is left out. -/
theorem exists_pBox_eq (hb : 4 ∣ b) (hk : k < b) : ∃ j < b, pBox b j = k := by
  obtain rfl | hlt : k = b - 1 ∨ k < b - 1 := by omega
  · exact ⟨b - 1, hk, pBox_last b⟩
  · exact ⟨4 * k % (b - 1), mod_sub_one_lt hlt _, pBox_four_mul_mod hb hlt⟩

/-- The `b` positions are all reached from `b` of them, so they are permuted ("no bit dropped or duplicated"). -/
theorem map_pBox_range_perm (hb : 4 ∣ b) : ((List.range b).map (pBox b)).Perm (List.range b) := by
  have hsub : List.range b ⊆ (List.range b).map (pBox b) := fun k hk => by
    simpa using exists_pBox_eq hb (List.mem_range.1 hk)
  exact ((List.subperm_of_subset List.nodup_range hsub).perm_of_length_le (by simp)).symm

theorem pBox_injOn (hb : 4 ∣ b) : ∀ j < b, ∀ k < b, pBox b j = pBox b k → j = k := by
  have hnodup := (map_pBox_range_perm hb).nodup_iff.2 List.nodup_range
  exact fun j hj k hk => List.inj_on_of_nodup_map hnodup (List.mem_range.2 hj) (List.mem_range.2 hk)

/-! ### The layer bit by bit -/

theorem getLsbD_pLayer_pBox (hb : 4 ∣ b) (S : BitVec b) (hj : j < b) :
    (pLayer S).getLsbD (pBox b j) = S.getLsbD j :=
  getLsbD_scatter_of_injective (pBox_injOn hb) hj (pBox_lt hj)

/-- A value is determined by its bits at the positions that the layer writes. -/
theorem eq_of_getLsbD_pBox_eq (hb : 4 ∣ b) {S T : BitVec b}
    (h : ∀ j < b, S.getLsbD (pBox b j) = T.getLsbD (pBox b j)) : S = T := by
  refine BitVec.eq_of_getLsbD_eq fun k hk => ?_
  obtain ⟨j, hj, rfl⟩ := exists_pBox_eq hb hk
  exact h j hj

theorem pLayer_zero (hb : 4 ∣ b) : pLayer (0#b) = 0#b :=
  eq_of_getLsbD_pBox_eq hb fun j hj => by simp [getLsbD_pLayer_pBox hb _ hj]

theorem pLayer_allOnes (hb : 4 ∣ b) : pLayer (BitVec.allOnes b) = BitVec.allOnes b :=
  eq_of_getLsbD_pBox_eq hb fun j hj => by simp [getLsbD_pLayer_pBox hb _ hj, hj, pBox_lt hj]

/-- Counting over the permuted positions counts the bits they came from. -/
theorem countP_getLsbD_pLayer (hb : 4 ∣ b) (S : BitVec b) :
    (List.range b).countP (fun k => (pLayer S).getLsbD k) = (List.range b).countP (fun k => S.getLsbD k) := by
  rw [← (map_pBox_range_perm hb).countP_eq, List.countP_map]
  refine List.countP_congr fun j hj => ?_
  rw [Function.comp_apply, getLsbD_pLayer_pBox hb S (List.mem_range.1 hj)]

end Machine
end Sys2Proof
end

section
/-! CERTIFICATE. The statements of 41_diffusion_layer.md. -/

namespace Sys2Proof.Machine

/-- Settles O28: each bit read is at the position that the map gives it. -/
theorem pLayerMovesEveryBit : Obligations.PLayerMovesEveryBit := by
  intro v S
  have hlast : v.b - 1 < v.b := Nat.sub_lt (Nat.zero_lt_of_lt v.r_lt_b) Nat.one_pos
  have hmove : ∀ j ≤ v.b - 2, (pLayer S).getLsbD (j * (v.b / 4) % (v.b - 1)) = S.getLsbD j := fun j hj => by
    have hlt := v.lt_b_sub_one_of_le hj
    rw [← pBox_of_lt hlt, getLsbD_pLayer_pBox v.four_dvd_b S (hlt.trans hlast)]
  refine ⟨hmove, ?_, ?_, pLayer_zero v.four_dvd_b, pLayer_allOnes v.four_dvd_b⟩
  · simpa using getLsbD_pLayer_pBox v.four_dvd_b S hlast
  · simpa using hmove 0 (Nat.zero_le _)

/-- Settles O29: the layer permutes the positions that are counted. -/
theorem pLayerPreservesTheBitCount : Obligations.PLayerPreservesTheBitCount :=
  fun v S => countP_getLsbD_pLayer v.four_dvd_b S

/-- Settles O30: the quarter form of the map, and the bit at the position the inverse wiring gathers for. -/
theorem pLayerInverseWiring : Obligations.PLayerInverseWiring := by
  refine fun v => ⟨fun q hq i hi => pBox_four_mul_add v.four_dvd_b hq hi, fun S k hk => ?_⟩
  have hlt := v.lt_b_sub_one_of_le hk
  calc (pLayer S).getLsbD k = (pLayer S).getLsbD (pBox v.b (4 * k % (v.b - 1))) := by
        rw [pBox_four_mul_mod v.four_dvd_b hlt]
    _ = S.getLsbD (4 * k % (v.b - 1)) := getLsbD_pLayer_pBox v.four_dvd_b S (mod_sub_one_lt hlt _)

end Sys2Proof.Machine
end

section
/-! SUPPORT. The round-constant generator (rules R74, R75, R79) and the constant addition (rules R76, R78) bit by bit. -/

namespace Sys2Proof.Machine

variable {v : Variant}

/-! ### The LFSR -/

/-- The shift vacates bit 0, and the feedback bit has no other bit. -/
theorem getLsbD_lfsrNext_zero (c : BitVec v.w) : (lfsrNext v c).getLsbD 0 = feedback v c := by
  simp [lfsrNext, v.w_pos]

theorem getLsbD_lfsrNext_succ (c : BitVec v.w) {i : Nat} (hi : i + 1 < v.w) :
    (lfsrNext v c).getLsbD (i + 1) = c.getLsbD i := by
  simp [lfsrNext, hi, -BitVec.getLsbD_eq_getElem]

/-- Whatever the taps, they read only zeros. -/
@[simp] theorem feedback_zero (v : Variant) : feedback v (0#v.w) = false :=
  List.foldl_fixed' (fun _ => by simp) v.taps

@[simp] theorem lfsrNext_zero (v : Variant) : lfsrNext v (0#v.w) = 0#v.w := by
  simp [lfsrNext]

/-! ### The counter values -/

/-- Equal counter values are followed by equal ones. -/
theorem ctr_add_eq_of_eq {t u : Nat} (h : ctr v t = ctr v u) (k : Nat) : ctr v (t + k) = ctr v (u + k) := by
  induction k with
  | zero => exact h
  | succ k ih => rw [← Nat.add_assoc, ← Nat.add_assoc, ctr_succ, ctr_succ, ih]

/-- Zero is stuck (rule R74). -/
theorem ctr_add_eq_zero {t : Nat} (h : ctr v t = 0#v.w) (k : Nat) : ctr v (t + k) = 0#v.w := by
  induction k with
  | zero => exact h
  | succ k ih => rw [← Nat.add_assoc, ctr_succ, ih, lfsrNext_zero]

/-- The last counter value of a permutation (rule R79). -/
theorem ctr_rounds_sub_one (v : Variant) : (ctr v (v.rounds - 1)).toNat = 2 ^ (v.w - 1) - 1 := by
  cases v <;> decide +kernel

/-- The counter value after the last one (rule R79). -/
theorem ctr_rounds (v : Variant) : ctr v v.rounds = BitVec.allOnes v.w := by
  cases v <;> decide +kernel

/-- All ones is reached after the last round and not before. -/
theorem ctr_ne_allOnes_of_lt (v : Variant) : ∀ t < v.rounds, ctr v t ≠ BitVec.allOnes v.w := by
  cases v <;> decide +kernel

theorem allOnes_w_ne_zero (v : Variant) : BitVec.allOnes v.w ≠ 0#v.w := by
  cases v <;> decide

/-- From zero the all-ones value after the last round would not be reached. -/
theorem ctr_ne_zero_of_lt {t : Nat} (ht : t < v.rounds) : ctr v t ≠ 0#v.w := by
  intro h
  have hend := ctr_add_eq_zero h (v.rounds - t)
  rw [Nat.add_sub_cancel' ht.le, ctr_rounds] at hend
  exact allOnes_w_ne_zero v hend

/-- A repeated value would bring the all-ones value before the last round is done. -/
theorem ctr_ne_of_lt {t u : Nat} (htu : t < u) (hu : u < v.rounds) : ctr v t ≠ ctr v u := by
  intro h
  have hend := ctr_add_eq_of_eq h (v.rounds - u)
  rw [Nat.add_sub_cancel' hu.le, ctr_rounds] at hend
  exact ctr_ne_allOnes_of_lt v _ (by omega) hend

/-! ### The constant addition -/

variable {b w k : Nat}

@[simp] theorem getLsbD_rev (c : BitVec w) (i : Nat) :
    (rev c).getLsbD i = (decide (i < w) && c.getLsbD (w - 1 - i)) := getLsbD_tabulate _ i

/-- Reversing reads the mirrored position back. -/
theorem getLsbD_rev_mirror (c : BitVec w) (hk : k < w) : (rev c).getLsbD (w - 1 - k) = c.getLsbD k := by
  have hmirror : w - 1 - (w - 1 - k) = k := by omega
  rw [getLsbD_rev, hmirror, decide_eq_true (by omega), Bool.true_and]

/-- Counter bit `k` lands on bit `k`, which the reversed counter does not reach. -/
theorem getLsbD_addCounter_low (hb : 2 * w ≤ b) (S : BitVec b) (c : BitVec w) (hk : k < w) :
    (addCounter S c).getLsbD k = (S.getLsbD k ^^ c.getLsbD k) := by
  have hkb : k < b := by omega
  have hlow : k < b - w := by omega
  simp [addCounter, hkb, hlow]

/-- Counter bit `k` lands on bit `b-1-k`, which the counter itself does not reach. -/
theorem getLsbD_addCounter_high (hb : 2 * w ≤ b) (S : BitVec b) (c : BitVec w) (hk : k < w) :
    (addCounter S c).getLsbD (b - 1 - k) = (S.getLsbD (b - 1 - k) ^^ c.getLsbD k) := by
  have hkb : b - 1 - k < b := by omega
  have hwb : w - 1 - k < b := by omega
  have hhigh : ¬ b - 1 - k < b - w := by omega
  have hc : c.getLsbD (b - 1 - k) = false := BitVec.getLsbD_of_ge _ _ (by omega)
  have hi : b - 1 - k - (b - w) = w - 1 - k := by omega
  simp only [addCounter, BitVec.getLsbD_xor, BitVec.getLsbD_setWidth, BitVec.getLsbD_shiftLeft, hkb, hwb, hhigh, hc,
    hi, getLsbD_rev_mirror c hk, decide_true, decide_false, Bool.not_false, Bool.true_and, Bool.xor_false]

/-- Between the two ends no counter bit lands. -/
theorem getLsbD_addCounter_middle (S : BitVec b) (c : BitVec w) (hk : w ≤ k) (hkb : k < b - w) :
    (addCounter S c).getLsbD k = S.getLsbD k := by
  simp [addCounter, hkb, BitVec.getLsbD_of_ge c k hk]

end Sys2Proof.Machine
end

section
/-! CERTIFICATE. The statements of 42_round_constant.md. -/

namespace Sys2Proof.Machine

/-- Settles O31: the two bit laws of the LFSR step, with each variant's taps read from the table of rule R7. -/
theorem lfsrShiftsAndFeedsBack : Obligations.LfsrShiftsAndFeedsBack := by
  refine ⟨fun _ c _ hi => getLsbD_lfsrNext_succ c hi, ?_, ?_, ?_, ?_, ?_, lfsrNext_zero⟩
  all_goals
    intro c
    rw [getLsbD_lfsrNext_zero]
    simp [feedback, Variant.taps, Variant.params]

/-- Settles O33: the three ranges of state bits, which the width of each variant keeps apart. -/
theorem addCounterTouchesBothEnds : Obligations.AddCounterTouchesBothEnds := by
  intro v S c
  have hb := v.two_w_lt_b.le
  refine ⟨fun k hk => ⟨?_, getLsbD_addCounter_low hb S c hk, getLsbD_addCounter_high hb S c hk⟩,
    fun k => getLsbD_addCounter_middle S c⟩
  rw [getLsbD_rev, decide_eq_true hk, Bool.true_and]

/-- Settles O32: all ones comes after the last round and not before, which excludes a zero and a repeated value. -/
theorem counterValuesAreDistinct : Obligations.CounterValuesAreDistinct := fun v =>
  ⟨fun _ _ => ctr_ne_of_lt, fun _ => ctr_ne_zero_of_lt, ctr_rounds_sub_one v, ctr_rounds v⟩

end Sys2Proof.Machine
end

section
/-! SUPPORT. The round and the permutation as bijections (rules R82, R83), and the edges at which a permutation runs
(rules R85, R86). -/

namespace Sys2Proof

/-- A round index of `R-1` is not the idle one. -/
theorem Variant.rounds_sub_one_pos (v : Variant) : 0 < v.rounds - 1 := by cases v <;> decide

namespace Machine

/-! ### Bijections of the state -/

section Layers

variable {b w : Nat}

/-- The constant addition exclusive-ors a value that does not depend on the state. -/
theorem addCounter_injective (c : BitVec w) : Function.Injective (fun S : BitVec b => addCounter S c) := by
  intro S T h
  simpa only [addCounter, BitVec.xor_left_inj] using h

/-- Every bit of the state is read back at the position the layer moves it to. -/
theorem pLayer_injective (hb : 4 ∣ b) : Function.Injective (pLayer : BitVec b → BitVec b) := by
  intro S T h
  refine BitVec.eq_of_getLsbD_eq fun j hj => ?_
  rw [← getLsbD_pLayer_pBox hb S hj, h, getLsbD_pLayer_pBox hb T hj]

/-- A round is injective layer by layer, hence bijective on the finitely many `b`-bit states. -/
theorem permRound_bijective (hb : 4 ∣ b) (c : BitVec w) : Function.Bijective (fun S : BitVec b => permRound S c) := by
  have hinj := (pLayer_injective hb).comp ((sboxLayer_injective hb).comp (addCounter_injective c))
  exact hinj.bijective_of_finite

end Layers

variable {v : Variant}

theorem rounds_bijective (v : Variant) (t : Nat) : Function.Bijective (fun S => rounds v S t) := by
  induction t with
  | zero => exact Function.bijective_id
  | succ t ih => exact (permRound_bijective v.four_dvd_b (ctr v t)).comp ih

/-! ### The edges of a busy core -/

theorem Ctl.not_accepts_of_busy {x : Ctl} (hb : x.busy = true) : x.accepts = false := by
  obtain rfl | rfl | rfl := Ctl.busy_iff.1 hb <;> rfl

theorem Ctl.ne_sqzOut_of_busy {x : Ctl} (hb : x.busy = true) : x ≠ .sqzOut := by
  rintro rfl
  cases hb

/-- A busy core accepts no command (rule R96). -/
theorem CoreState.commandTaken_of_busy {c : CoreState v} (hw : c.wasReset = true) (hb : c.regs.ctl.busy = true) :
    c.commandTaken = none := by
  simp [CoreState.commandTaken, CoreState.cmdXfer_eq hw, Ctl.not_accepts_of_busy hb]

/-- A busy core presents no block (rule R98). -/
theorem CoreState.blockTaken_of_busy {c : CoreState v} (hw : c.wasReset = true) (hb : c.regs.ctl.busy = true) :
    c.blockTaken = none := by
  simp [CoreState.blockTaken, CoreState.outXfer_eq hw, Ctl.ne_sqzOut_of_busy hb]

/-- Within the invariant, only a running permutation has a nonzero round index. -/
theorem Regs.Inv.busy_of_last_round {g : Regs v} (h : g.Inv) (hlast : g.rnd.toNat = v.rounds - 1) :
    g.ctl.busy = true := by
  by_contra hb
  have hzero : g.rnd.toNat = 0 := by simp [h.rnd_idle (Bool.eq_false_iff.2 hb)]
  have hpos := v.rounds_sub_one_pos
  omega

/-- The last round of a running permutation, with `lfsr` at the value its round index gives it (rule R86). -/
theorem Regs.Inv.roundStep_of_last_round {g : Regs v} (h : g.Inv) (hlast : g.rnd.toNat = v.rounds - 1) :
    g.roundStep = { g with
      S := permRound g.S (ctr v (v.rounds - 1)), lfsr := ctr v v.rounds, rnd := 0#v.w, ctl := g.ctl.succ } := by
  have hlfsr : g.lfsr = ctr v (v.rounds - 1) := hlast ▸ h.lfsr_busy (h.busy_of_last_round hlast)
  have hnext : lfsrNext v (ctr v (v.rounds - 1)) = ctr v v.rounds := by
    rw [← ctr_succ, Nat.sub_add_cancel v.rounds_pos]
  obtain ⟨-, e⟩ | ⟨hnot, -⟩ := g.roundStep_cases
  · rw [e, hlfsr, hnext]
  · exact absurd hlast hnot

/-- A host that drives `rst = 0` at the coming edges does so at the first of them. -/
theorem CoreState.runs.mono {c : CoreState v} {j k : Nat} (h : c.runs k) (hjk : j ≤ k) : c.runs j := by
  rw [← Nat.add_sub_cancel' hjk] at h
  exact (CoreState.runs_add.1 h).1

end Machine
end Sys2Proof
end

section
/-! CERTIFICATE. The statements of 43_permutation_engine.md. -/

namespace Sys2Proof.Machine

/-- Settles O34: each of the three layers is injective on the whole nibbles of the variant. -/
theorem roundIsBijective : Obligations.RoundIsBijective := fun v c => permRound_bijective v.four_dvd_b c

/-- Settles O35: the rounds of the loop are composed one by one. -/
theorem permIsBijective : Obligations.PermIsBijective := fun v => rounds_bijective v v.rounds

/-- Settles O42: the invariant makes the core busy and fixes `lfsr`, and the edge is the last round step. -/
theorem lastRoundCompletes : Obligations.LastRoundCompletes := by
  intro v c hw hr hinv hlast
  have hstep := step_of_busy hw hr (hinv.busy_of_last_round hlast)
  rw [hinv.roundStep_of_last_round hlast] at hstep
  refine ⟨_, rfl, rfl, rfl, fun hc => ⟨hstep, ?_⟩, fun hc => ⟨hstep, ?_⟩, fun hc => ⟨hstep, ?_⟩⟩
  all_goals simp [hc, Ctl.succ]

/-- Settles O43: before round `k` the core is still busy, and after `R` edges the permutation is completed. -/
theorem permutationTakesRoundsManyEdges : Obligations.PermutationTakesRoundsManyEdges := by
  intro v c hr hb hrnd hlfsr
  have hs : c.regs.PermStarted := ⟨hb, hrnd, hlfsr⟩
  refine ⟨fun k hk => ⟨_, run_afterRounds hs hk (hr.mono hk.le), hb, ?_, ?_⟩, run_completePermutation hs hr⟩
  · exact CoreState.commandTaken_of_busy hr.1 hb
  · exact CoreState.blockTaken_of_busy hr.1 hb

/-- Settles O41: a busy core transfers nothing, and its edge is the round step. -/
theorem busyEdgeIsOneRound : Obligations.BusyEdgeIsOneRound := fun _ _ hw hr hb =>
  ⟨CoreState.commandTaken_of_busy hw hb, CoreState.blockTaken_of_busy hw hb, step_of_busy hw hr hb⟩

end Sys2Proof.Machine
end

section
/-! SUPPORT. Where `pos` keeps a stream bit (rule R89), a padded block read by bytes (rule R92), and the length read off a
padded message (rule R94). -/

namespace Sys2Proof.Machine

variable {r : Nat}

/-! ### The byte of a stream bit (rule R89) -/

/-- `pos` moves a stream bit within its byte only, so it commutes with skipping whole bytes. -/
theorem pos_eight_mul_add (o : BitOrder) (q t : Nat) : pos o (8 * q + t) = 8 * q + pos o t := by
  cases o with
  | msbFirst => simp only [pos]; omega
  | lsbFirst => rfl

theorem pos_div_eight (o : BitOrder) (t : Nat) : pos o t / 8 = t / 8 := by
  cases o with
  | msbFirst => simp only [pos]; omega
  | lsbFirst => rfl

theorem pos_msbFirst (t : Nat) : pos .msbFirst t = 8 * (t / 8) + (7 - t % 8) :=
  Nat.add_sub_assoc (Nat.le_of_lt_succ (Nat.mod_lt t (by decide))) _

/-! ### The bytes of a padded block (rule R92) -/

/-- Bit `i` of byte `j` of a block padded after `q` whole bytes. -/
theorem getLsbD_padBlock_byte (o : BitOrder) (hr : 8 ∣ r) (d : BitVec r) {q j i : Nat} (hq : q < r / 8)
    (hj : j < r / 8) (hi : i < 8) :
    (padBlock o d (8 * q)).getLsbD (8 * j + i) =
      if j < q then d.getLsbD (8 * j + i) else decide (j = q ∧ pos o i = 0) := by
  have hpi : pos o i < 8 := pos_lt o dvd_rfl hi
  have hbit := getLsbD_padBlock_pos o hr d (k := 8 * q) (t := 8 * j + pos o i) (by omega) (by omega)
  have hlt : 8 * j + pos o i < 8 * q ↔ j < q := by omega
  have heq : 8 * j + pos o i = 8 * q ↔ j = q ∧ pos o i = 0 := by omega
  simpa only [pos_eight_mul_add, pos_pos, hlt, heq] using hbit

/-- The padding byte's one set bit is the place of the first stream bit of a byte. -/
theorem getLsbD_twoPow_pos_zero (o : BitOrder) (i : Nat) :
    (BitVec.twoPow 8 (pos o 0)).getLsbD i = decide (pos o i = 0) := by
  have hplace : pos o 0 = i ↔ pos o i = 0 := by
    rw [← (pos_injective o).eq_iff, pos_pos, eq_comm]
  simp [BitVec.getLsbD_twoPow, hplace, pos_lt o (dvd_refl 8)]

/-- Rule R92, with the padding byte written by the place of its bit. -/
theorem byteOf_padBlock (o : BitOrder) (hr : 8 ∣ r) (d : BitVec r) {q j : Nat} (hq : q < r / 8) (hj : j < r / 8) :
    byteOf (padBlock o d (8 * q)) j =
      if j < q then byteOf d j else if j = q then BitVec.twoPow 8 (pos o 0) else 0#8 := by
  refine BitVec.eq_of_getLsbD_eq fun i hi => ?_
  rw [getLsbD_byteOf, decide_eq_true hi, Bool.true_and, getLsbD_padBlock_byte o hr d hq hj hi]
  split_ifs with hlt heq
  · rw [getLsbD_byteOf, decide_eq_true hi, Bool.true_and]
  · rw [getLsbD_twoPow_pos_zero, heq]
    simp
  · simp [heq]

/-! ### The length of a padded message (rule R94) -/

/-- Stream bit `L'` of the right side is its padding's `1`, and past `L` the left side has zeros only. -/
theorem le_of_pad_eq_pad {o : BitOrder} {M M' : List Byte} {L L' : Nat} (h : pad o r M L = pad o r M' L') : L' ≤ L := by
  by_contra hlt
  have hbit : (pad o r M L).getD L' false = (pad o r M' L').getD L' false := by rw [h]
  rw [getD_pad, getD_pad, if_neg (by omega), if_neg (by omega)] at hbit
  have hL : L' = L := by simpa using hbit
  omega

end Sys2Proof.Machine
end

section
/-! CERTIFICATE. The statements of 44_padding.md. -/

namespace Sys2Proof.Machine

/-- Settles O36: `pos` is its own inverse and keeps every stream bit inside its byte. -/
theorem posIsABijectionInsideBytes : Obligations.PosIsABijectionInsideBytes := by
  intro v o
  have hlt {t : Nat} : t < v.r → pos o t < v.r := pos_lt o v.eight_dvd_r
  exact ⟨fun t ht => ⟨hlt ht, pos_div_eight o t, pos_msbFirst t, rfl⟩, fun _ _ _ _ h => pos_injective o h,
    fun j hj => ⟨pos o j, hlt hj, pos_pos o j⟩⟩

/-- Settles O37: every rate is a number of whole bytes. -/
theorem padBlockStreamBits : Obligations.PadBlockStreamBits := fun v o d _ hk _ ht =>
  getLsbD_padBlock_pos o v.eight_dvd_r d hk ht

/-- Settles O38: the first stream bit of a byte is its bit 7 for `MSB_FIRST` and its bit 0 for `LSB_FIRST`. -/
theorem padBlockAfterWholeBytes : Obligations.PadBlockAfterWholeBytes := by
  intro v o d q hq j hj
  rw [byteOf_padBlock o v.eight_dvd_r d hq hj]
  cases o <;> rfl

/-- Settles O40: the lengths bound each other, and below the common length the padded message reads the message. -/
theorem paddingIsInjective : Obligations.PaddingIsInjective := by
  intro v o M M' L L' h
  obtain rfl : L = L' := le_antisymm (le_of_pad_eq_pad h.symm) (le_of_pad_eq_pad h)
  refine ⟨rfl, fun t ht => ?_⟩
  have hbit : (pad o v.r M L).getD t false = (pad o v.r M' L).getD t false := by rw [h]
  rwa [getD_pad, getD_pad, if_pos ht, if_pos ht] at hbit

end Sys2Proof.Machine
end

section
/-! SUPPORT. The effect of each command by the state it meets (rules R100 to R102, R124 to R129), and a block absorbed
over its edges (rules R109, R110). -/

namespace Sys2Proof.Machine

variable {v : Variant}

/-! ### The dispatch that `ABSORB` and `FINAL` share -/

theorem Regs.blockCommand_of_ready {g : Regs v} (hc : g.ctl = .init ∨ g.ctl = .absWait) (f : Regs v → Regs v) :
    g.blockCommand f = f g := by
  obtain hc | hc := hc <;> simp [Regs.blockCommand, hc]

theorem Regs.blockCommand_of_done {g : Regs v} (hc : g.ctl = .done) (f : Regs v → Regs v) :
    g.blockCommand f = g.raiseError .seq := by
  simp [Regs.blockCommand, hc]

theorem Regs.blockCommand_of_error {g : Regs v} (hc : g.ctl = .error) (f : Regs v → Regs v) :
    g.blockCommand f = g := if_pos hc

/-! ### The effects of `FINAL` and of the reserved code -/

theorem commandEffect_final {g : Regs v} (hc : g.ctl = .init ∨ g.ctl = .absWait) {len : LenWord}
    (hlen : len.toNat < v.r) (o : BitOrder) (data : Block) :
    commandEffect o (.final len data) g =
      g.absorbBlock (padBlock o (blockOperand v data) (lenOperand len)) .finPerm := by
  rw [commandEffect, Regs.blockCommand_of_ready hc]
  exact if_neg hlen.not_ge

theorem commandEffect_final_of_le {g : Regs v} (hc : g.ctl = .init ∨ g.ctl = .absWait) {len : LenWord}
    (hlen : v.r ≤ len.toNat) (o : BitOrder) (data : Block) :
    commandEffect o (.final len data) g = g.raiseError .len := by
  rw [commandEffect, Regs.blockCommand_of_ready hc]
  exact if_pos hlen

theorem commandEffect_rsv {g : Regs v} (hc : g.ctl ≠ .error) (o : BitOrder) (len : LenWord) (data : Block) :
    commandEffect o (.rsv len data) g = g.raiseError .badcmd := if_neg hc

/-- In `DONE` both block commands are out of sequence (rule R125). -/
theorem commandEffect_of_done {g : Regs v} (hc : g.ctl = .done) {i : Instr} (hi : i.op = 0b01#2 ∨ i.op = 0b10#2)
    (o : BitOrder) : commandEffect o i g = g.raiseError .seq := by
  cases i with
  | absorb len data | final len data => rw [commandEffect, Regs.blockCommand_of_done hc]
  | init len data | rsv len data => simp [Instr.op] at hi

/-- In `ERROR` every command but `INIT` is ignored (rule R128). -/
theorem commandEffect_of_error {g : Regs v} (hc : g.ctl = .error) {i : Instr} (hi : i.op ≠ 0b00#2) (o : BitOrder) :
    commandEffect o i g = g := by
  cases i with
  | init len data => exact absurd rfl hi
  | absorb len data | final len data => rw [commandEffect, Regs.blockCommand_of_error hc]
  | rsv len data => exact if_pos hc

theorem exec_of_ready {c : CoreState v} (hc : c.regs.ctl = .init ∨ c.regs.ctl = .absWait) (i : Instr) :
    exec i ⟨v, c⟩ = .next ⟨v, c.withRegs (commandEffect c.order i c.regs)⟩ :=
  exec_of_accepts (Ctl.accepts_iff.2 (by tauto)) i

theorem exec_of_done {c : CoreState v} (hc : c.regs.ctl = .done) {i : Instr} (hi : i.op = 0b01#2 ∨ i.op = 0b10#2) :
    exec i ⟨v, c⟩ = .next ⟨v, c.withRegs (c.regs.raiseError .seq)⟩ := by
  rw [exec_of_accepts (Ctl.accepts_iff.2 (by tauto)), commandEffect_of_done hc hi]

theorem exec_of_error {c : CoreState v} (hc : c.regs.ctl = .error) {i : Instr} (hi : i.op ≠ 0b00#2) :
    exec i ⟨v, c⟩ = .next ⟨v, c⟩ := by
  rw [exec_of_accepts (Ctl.accepts_iff.2 (by tauto)), commandEffect_of_error hc hi, CoreState.withRegs_self]

/-! ### A block absorbed over its edges -/

theorem CoreState.elapse_withRegs (c : CoreState v) (g : Regs v) (k : Nat) :
    (c.withRegs g).elapse k = (c.elapse k).withRegs g := rfl

/-- A transferred command that absorbs a block, with the permutation it starts (rules R109, R110). -/
theorem run_absorbBlock {c : CoreState v} {i : Instr} {d : BitVec v.r} {x : Ctl} (hr : c.runs (1 + v.rounds))
    (hi : c.commandTaken = some i) (he : commandEffect c.order i c.regs = c.regs.absorbBlock d x) (hx : x.busy = true) :
    run (1 + v.rounds) ⟨v, c⟩ =
      .next ⟨v, (c.elapse (1 + v.rounds)).withRegs (c.regs.absorbBlock d x).completePermutation⟩ := by
  obtain ⟨hcmd, rfl⟩ := CoreState.commandTaken_eq_some.1 hi
  have hstep := step_of_cmdXfer hr.1 hcmd
  rw [he] at hstep
  have hedges : (c.withRegs (c.regs.absorbBlock d x)).transferEdges = 1 + v.rounds := by
    simp [CoreState.transferEdges, hx]
  have hrun := run_transferEdges hstep (fun _ => c.regs.absorbBlock_permStarted d hx) (hedges ▸ hr)
  simpa [hedges, CoreState.settle, hx, CoreState.elapse_withRegs] using hrun

end Sys2Proof.Machine
end

section
/-! SUPPORT. The idle edge (rule R105), and the output blocks of a run: which edges hand one out, and what it holds
(rules R103, R111). -/

namespace Sys2Proof.Machine

variable {v : Variant}

/-! ### Single edges -/

theorem CoreState.runs_succ {c : CoreState v} {k : Nat} (h : c.runs (k + 1)) : c.pins.rst = false ∧ c.tick.runs k := by
  rw [Nat.add_comm, CoreState.runs_add, CoreState.elapse_one] at h
  obtain ⟨hone, hrest⟩ := h
  exact ⟨CoreState.rst_of_runs_one hone, hrest⟩

/-- An edge with no reset, no round step and no transfer (rule R105). -/
theorem step_of_idle {c : CoreState v} (hw : c.wasReset = true) (hr : c.pins.rst = false)
    (hb : c.regs.ctl.busy = false) (hout : c.outXfer = false) (hcmd : c.cmdXfer = false) :
    step ⟨v, c⟩ = .next ⟨v, c.tick⟩ := by
  rw [step_of_wasReset hw]
  simp [CoreState.next, hr, hb, hout, hcmd]

theorem CoreState.outData_of_sqzOut {c : CoreState v} (hw : c.wasReset = true) (hc : c.regs.ctl = .sqzOut) :
    (c.portsAt false).outData = (rate v c.regs.S).setWidth 16 := by
  simp [CoreState.portsAt, hw, runPorts, hc]

theorem CoreState.blockTaken_of_outXfer {c : CoreState v} (hw : c.wasReset = true) (h : c.outXfer = true) :
    c.blockTaken = some ((rate v c.regs.S).setWidth 16) := by
  obtain ⟨hr, hc, -⟩ := (CoreState.outXfer_iff hw).1 h
  exact CoreState.blockTaken_eq_some.2 ⟨h, by rw [CoreState.ports, hr, CoreState.outData_of_sqzOut hw hc]⟩

/-! ### The output blocks of a run -/

theorem blocksTaken_succ_of_step {s t : State} (h : step s = .next t) (k : Nat) :
    blocksTaken (k + 1) s = s.core.blockTaken.toList ++ blocksTaken k t := by
  simp [blocksTaken, h]

theorem blocksTaken_one (s : State) : blocksTaken 1 s = s.core.blockTaken.toList := by
  unfold blocksTaken
  cases step s <;> simp [blocksTaken]

/-- The blocks of a run are those of its first edges and then those of the rest. -/
theorem blocksTaken_add {s t : State} {j : Nat} (h : run j s = .next t) (k : Nat) :
    blocksTaken (j + k) s = blocksTaken j s ++ blocksTaken k t := by
  induction j generalizing s with
  | zero =>
    obtain rfl : s = t := by injection h
    simp [blocksTaken]
  | succ j ih =>
    cases hs : step s with
    | next u =>
      rw [run_succ_of_step hs] at h
      rw [Nat.succ_add, blocksTaken_succ_of_step hs, blocksTaken_succ_of_step hs, ih h, List.append_assoc]
    | fault f => simp [run, hs] at h
    | refused x => simp [run, hs] at h

/-- While a permutation runs, no block is handed out. -/
theorem blocksTaken_of_permStarted {c : CoreState v} (hs : c.regs.PermStarted) {n : Nat} (hn : n ≤ v.rounds)
    (hr : c.runs n) : blocksTaken n ⟨v, c⟩ = [] := by
  induction n with
  | zero => rfl
  | succ n ih =>
    have hrn := hr.mono n.le_succ
    rw [blocksTaken_add (run_afterRounds hs hn hrn), ih (Nat.le_of_succ_le hn) hrn, blocksTaken_one, List.nil_append]
    exact congrArg Option.toList
      (CoreState.blockTaken_of_busy (c := (c.elapse n).withRegs (c.regs.afterRounds n)) hr.1 hs.busy)

/-- A block handed out after the start of a permutation is handed out after its end. -/
theorem getElem?_blocksTaken_of_permStarted {c : CoreState v} (hs : c.regs.PermStarted) {n k : Nat} {x : Block}
    (hr : c.runs n) (hx : (blocksTaken n ⟨v, c⟩)[k]? = some x) :
    ∃ m, n = v.rounds + m ∧
      (blocksTaken m ⟨v, (c.elapse v.rounds).withRegs c.regs.completePermutation⟩)[k]? = some x := by
  obtain hn | ⟨m, rfl⟩ := (le_total n v.rounds).imp_right Nat.exists_eq_add_of_le
  · simp [blocksTaken_of_permStarted hs hn hr] at hx
  · have hrR := (CoreState.runs_add.1 hr).1
    rw [blocksTaken_add (run_completePermutation hs hrR), blocksTaken_of_permStarted hs le_rfl hrR,
      List.nil_append] at hx
    exact ⟨m, rfl, hx⟩

/-- An output transfer that leaves a block to come starts the permutation that leads to its presentation (rule R103). -/
theorem Regs.completePermutation_outputTransfer {g : Regs v} (hn : g.nout.toNat + 1 < v.nb) :
    g.outputTransfer.PermStarted ∧ g.outputTransfer.completePermutation.ctl = .sqzOut ∧
      g.outputTransfer.completePermutation.nout.toNat = g.nout.toNat + 1 := by
  obtain ⟨hlast, -⟩ | ⟨-, e⟩ := g.outputTransfer_cases
  · omega
  · rw [e]
    exact ⟨⟨rfl, rfl, rfl⟩, rfl, g.nout_succ_toNat (by omega)⟩

/-- From any presentation of a hash on, the `k`-th block handed out, if the hash still has one, is the rate after `k`
more permutations (rule R111). -/
theorem getElem?_blocksTaken_of_sqzOut {c : CoreState v} {n k : Nat} {x : Block} (hr : c.runs n)
    (hc : c.regs.ctl = .sqzOut) (hk : c.regs.nout.toNat + k < v.nb) (hx : (blocksTaken n ⟨v, c⟩)[k]? = some x) :
    x = (rate v (permIter v k c.regs.S)).setWidth 16 := by
  induction n using Nat.strong_induction_on generalizing c k with
  | _ n ih =>
    cases n with
    | zero => simp [blocksTaken] at hx
    | succ n =>
      obtain ⟨hrst, hrt⟩ := CoreState.runs_succ hr
      cases hout : c.outXfer with
      | false =>
        have hcmd : c.cmdXfer = false := by simp [CoreState.cmdXfer_eq hr.1, hc, Ctl.accepts]
        rw [blocksTaken_succ_of_step (step_of_idle hr.1 hrst (by simp [hc, Ctl.busy]) hout hcmd)] at hx
        exact ih n n.lt_succ_self (c := c.tick) hrt hc hk (by simpa [CoreState.blockTaken, hout] using hx)
      | true =>
        rw [blocksTaken_succ_of_step (step_of_outXfer hr.1 hout), CoreState.blockTaken_of_outXfer hr.1 hout] at hx
        cases k with
        | zero => simpa [permIter, eq_comm] using hx
        | succ k =>
          obtain ⟨hs, hc', hnout⟩ := Regs.completePermutation_outputTransfer (g := c.regs) (by omega)
          obtain ⟨m, rfl, hxm⟩ :=
            getElem?_blocksTaken_of_permStarted (c := c.tick.withRegs c.regs.outputTransfer) hs hrt (by simpa using hx)
          simpa [permIter] using
            ih m (by omega) (c := (c.tick.elapse v.rounds).withRegs c.regs.outputTransfer.completePermutation)
              (CoreState.runs_add.1 hrt).2 hc' (by rw [CoreState.withRegs_regs, hnout]; omega) hxm

end Sys2Proof.Machine
end

section
/-! SUPPORT. The moves of `ctl`, by the event at the edge (rule R95). -/

namespace Sys2Proof.Machine

variable {v : Variant}

theorem Regs.roundStep_ctl (g : Regs v) :
    g.roundStep.ctl = if g.rnd.toNat = v.rounds - 1 then g.ctl.succ else g.ctl := by
  obtain ⟨h, e⟩ | ⟨h, e⟩ := g.roundStep_cases <;> simp [e, h]

theorem CoreState.commandTaken_eq_none {c : CoreState v} : c.commandTaken = none ↔ c.cmdXfer = false := by
  simp [CoreState.commandTaken]

theorem CoreState.blockTaken_eq_none {c : CoreState v} : c.blockTaken = none ↔ c.outXfer = false := by
  simp [CoreState.blockTaken]

/-- The rows of a running permutation. -/
theorem ctlMove_of_busy {c d : CoreState v} (hr : c.pins.rst = false) (hb : c.regs.ctl.busy = true)
    (hd : d.regs.ctl = c.regs.roundStep.ctl) : CtlMove c d := by
  obtain hc | hc | hc := Ctl.busy_iff.1 hb <;> simp [CtlMove, hr, hc, hd, Regs.roundStep_ctl, Ctl.succ]

/-- The rows of an output transfer. -/
theorem ctlMove_of_outputTransfer {c d : CoreState v} {x : Block} (hr : c.pins.rst = false) (hc : c.regs.ctl = .sqzOut)
    (hx : c.blockTaken = some x) (hd : d.regs = c.regs.outputTransfer) : CtlMove c d := by
  obtain ⟨hn, e⟩ | ⟨hn, e⟩ := c.regs.outputTransfer_cases <;> simp [CtlMove, hr, hc, hx, hd, e, hn]

/-- The rows of a command in `INIT` and `ABS_WAIT`. -/
theorem ctlMove_of_command_ready {c d : CoreState v} {i : Instr} (hr : c.pins.rst = false)
    (hc : c.regs.ctl = .init ∨ c.regs.ctl = .absWait) (hi : c.commandTaken = some i)
    (hd : d.regs = commandEffect c.order i c.regs) : CtlMove c d := by
  cases i with
  | init len data =>
    rw [commandEffect_init rfl] at hd
    obtain hc | hc := hc <;> simp [CtlMove, hr, hc, hi, hd]
  | absorb len data =>
    rw [commandEffect_absorb hc] at hd
    obtain hc | hc := hc <;> simp [CtlMove, hr, hc, hi, hd]
  | final len data =>
    obtain hlen | hlen := lt_or_ge len.toNat v.r
    · rw [commandEffect_final hc hlen] at hd
      obtain hc | hc := hc <;> simp [CtlMove, hr, hc, hi, hd, hlen]
    · rw [commandEffect_final_of_le hc hlen] at hd
      obtain hc | hc := hc <;> simp [CtlMove, hr, hc, hi, hd, hlen]
  | rsv len data =>
    obtain hc | hc := hc <;> simp [CtlMove, hr, hc, hi, hd, commandEffect_rsv]

/-- The rows of a command in `DONE`. -/
theorem ctlMove_of_command_done {c d : CoreState v} {i : Instr} (hr : c.pins.rst = false) (hc : c.regs.ctl = .done)
    (hi : c.commandTaken = some i) (hd : d.regs = commandEffect c.order i c.regs) : CtlMove c d := by
  cases i with
  | init len data =>
    rw [commandEffect_init rfl] at hd
    simp [CtlMove, hr, hc, hi, hd]
  | absorb len data | final len data =>
    rw [commandEffect_of_done hc (by simp [Instr.op])] at hd
    simp [CtlMove, hr, hc, hi, hd]
  | rsv len data => simp [CtlMove, hr, hc, hi, hd, commandEffect_rsv]

/-- The rows of a command in `ERROR`. -/
theorem ctlMove_of_command_error {c d : CoreState v} {i : Instr} (hr : c.pins.rst = false) (hc : c.regs.ctl = .error)
    (hi : c.commandTaken = some i) (hd : d.regs = commandEffect c.order i c.regs) : CtlMove c d := by
  cases i with
  | init len data =>
    rw [commandEffect_init rfl] at hd
    simp [CtlMove, hr, hc, hi, hd]
  | absorb len data | final len data | rsv len data =>
    rw [commandEffect_of_error hc (by simp [Instr.op])] at hd
    simp [CtlMove, hr, hc, hi, hd]

/-- An edge with no event is in no row, so `ctl` stays. -/
theorem ctlMove_of_idle {c d : CoreState v} (hr : c.pins.rst = false) (hb : c.regs.ctl.busy = false)
    (hx : c.blockTaken = none) (hi : c.commandTaken = none) (hd : d.regs = c.regs) : CtlMove c d := by
  cases hc : c.regs.ctl with
  | absPerm | finPerm | sqzPerm => simp [hc, Ctl.busy] at hb
  | init | absWait | sqzOut | done | error => simp [CtlMove, hr, hc, hx, hi, hd]

end Sys2Proof.Machine
end

section
/-! CERTIFICATE. The statements of 45_sponge_commands.md. -/

namespace Sys2Proof.Machine

/-- Settles O44: the transferred `ABSORB` absorbs its block, and `run_absorbBlock` follows the permutation. -/
theorem absorbTransaction : Obligations.AbsorbTransaction := fun _ c len data hr hc hi =>
  run_absorbBlock hr hi (commandEffect_absorb hc c.order len data) rfl

/-- Settles O45: below `r` the transferred `FINAL` absorbs its padded block, and `run_absorbBlock` follows the
permutation. -/
theorem finalTransaction : Obligations.FinalTransaction := by
  intro v c len data hr hc hlen hi
  have hr_pos := v.r_pos
  exact run_absorbBlock hr hi (commandEffect_final hc (by omega) c.order data) rfl

/-- Settles O48: the first presentation has `nout = 0`. -/
theorem squeezedBlocks : Obligations.SqueezedBlocks := by
  intro v c n k x hr hc hn hk hx
  exact getElem?_blocksTaken_of_sqzOut hr hc (by simpa [hn] using hk) hx

/-- Settles O56, by the cases of a step: each event has its rows of the table. -/
theorem ctlMovesByTheTable : Obligations.CtlMovesByTheTable := by
  intro v c d h
  obtain ⟨_, _, _, hs, ht, hd⟩ := step_cases h
  cases hs
  cases ht
  obtain ⟨hr, rfl⟩ | ⟨hr, -, hb, rfl⟩ | ⟨hr, hw, hc, hout, rfl⟩ | ⟨hr, -, ha, hcmd, rfl⟩ |
    ⟨hr, -, hb, hout, hcmd, rfl⟩ := hd
  · simp [CtlMove, hr]
  · exact ctlMove_of_busy hr hb rfl
  · exact ctlMove_of_outputTransfer hr hc (CoreState.blockTaken_of_outXfer hw hout) rfl
  · have hi : c.commandTaken = some c.offered := CoreState.commandTaken_eq_some.2 ⟨hcmd, rfl⟩
    obtain hc | hc | hc | hc := Ctl.accepts_iff.1 ha
    · exact ctlMove_of_command_ready hr (.inl hc) hi rfl
    · exact ctlMove_of_command_ready hr (.inr hc) hi rfl
    · exact ctlMove_of_command_done hr hc hi rfl
    · exact ctlMove_of_command_error hr hc hi rfl
  · exact ctlMove_of_idle hr hb (CoreState.blockTaken_eq_none.2 hout) (CoreState.commandTaken_eq_none.2 hcmd) rfl

/-- Settles O12: the two guards exclude both transfers, and a presented block is the rate of the same state. -/
theorem idleEdgeHoldsEveryRegister : Obligations.IdleEdgeHoldsEveryRegister := by
  intro v c hw hr hb hnout hncmd
  have hout : c.outXfer = false := by
    rw [Bool.eq_false_iff, Ne, CoreState.outXfer_iff hw]
    tauto
  have hcmd : c.cmdXfer = false := by
    rw [Bool.eq_false_iff, Ne, CoreState.cmdXfer_iff hw]
    tauto
  refine ⟨step_of_idle hw hr hb hout hcmd, rfl, fun hc => ?_⟩
  rw [CoreState.outData_of_sqzOut hw hc, CoreState.outData_of_sqzOut (c := c.tick) hw hc, CoreState.tick_regs]

/-- Settles O14: `INIT` is accepted in the four states and its effect does not look at them. -/
theorem initClearsEveryRegister : Obligations.InitClearsEveryRegister := fun _ _ len data hc =>
  exec_of_accepts (Ctl.accepts_iff.2 hc) (.init len data)

/-- Settles O15, by the state that `ABSORB` meets. -/
theorem absorbXorsTheBlockAndStartsAPermutation : Obligations.AbsorbXorsTheBlockAndStartsAPermutation := by
  refine fun v c len data => ⟨fun hc => ?_, fun hc => exec_of_done hc (.inl rfl),
    fun hc => exec_of_error hc (by simp [Instr.op])⟩
  rw [exec_of_ready hc, commandEffect_absorb hc]
  rfl

/-- Settles O16, by the state that `FINAL` meets and its length. -/
theorem finalPadsAbsorbsAndStartsAPermutation : Obligations.FinalPadsAbsorbsAndStartsAPermutation := by
  refine fun v c len data => ⟨fun hc hlen => ?_, fun hc hlen => ?_, fun hc => exec_of_done hc (.inr rfl),
    fun hc => exec_of_error hc (by simp [Instr.op])⟩
  · have hr_pos := v.r_pos
    rw [exec_of_ready hc, commandEffect_final hc (by omega)]
    rfl
  · rw [exec_of_ready hc, commandEffect_final_of_le hc hlen]
    rfl

/-- Settles O47: the edge is an output transfer, and `outputTransfer_cases` tells the last block from the others. -/
theorem outputTransferHandsOverTheRate : Obligations.OutputTransferHandsOverTheRate := by
  intro v c hw hr hc hready
  have hout : c.outXfer = true := (CoreState.outXfer_iff hw).2 ⟨hr, hc, hready⟩
  have hstep := step_of_outXfer hw hout
  rw [CoreState.ports_eq_runPorts hw hr]
  refine ⟨CoreState.blockTaken_of_outXfer hw hout, ?_⟩
  obtain ⟨hn, e⟩ | ⟨hn, e⟩ := c.regs.outputTransfer_cases <;> rw [e] at hstep
  · exact ⟨fun _ => ⟨decide_eq_true ⟨hc, hn⟩, hstep⟩, fun hnot => absurd hn hnot⟩
  · exact ⟨fun hlast => absurd hlast hn, fun _ => ⟨decide_eq_false fun h => hn h.2, hstep⟩⟩

end Sys2Proof.Machine
end

section
/-! SUPPORT. A hash in progress (rules R115 to R117): what the registers hold after some commands of
`HashCommands(M, L)` and some output transfers; each event at an edge of such a run keeps it. -/

namespace Sys2Proof.Machine

variable {v : Variant} {o : BitOrder} {M : List Byte} {L i j : Nat} {g : Regs v}

/-! ### The commands of a hash -/

theorem getLsbD_blockOperand_pos (o : BitOrder) (data : Block) {t : Nat} (ht : t < v.r) :
    (blockOperand v data).getLsbD (pos o t) = data.getLsbD (pos o t) := by
  simp [blockOperand, pos_lt o v.eight_dvd_r ht]

/-- Command `i` of a hash absorbs block `i` of the padded message, whatever stands in its ignored bits. -/
theorem IsHashCommands.commandEffect_eq {cmds : List Instr} (h : IsHashCommands v o M L cmds) {x : Instr}
    (hx : cmds[i]? = some x) (hi : i ≤ L / v.r) (hc : g.ctl = .init ∨ g.ctl = .absWait) :
    commandEffect o x g =
      g.absorbBlock (streamBlock o v.r (pad o v.r M L) i) (if i < L / v.r then .absPerm else .finPerm) := by
  obtain ⟨-, habsorb, len, data, hfinal, hlen, hbits⟩ := h
  obtain hlt | rfl := Nat.lt_or_eq_of_le hi
  · obtain ⟨len, data, hget, hbits⟩ := habsorb i hlt
    obtain rfl : Instr.absorb len data = x := Option.some.inj (hget.symm.trans hx)
    have hblock : streamBlock o v.r (pad o v.r M L) i = blockOperand v data :=
      eq_of_getLsbD_pos_eq o v.eight_dvd_r fun t ht => by
        rw [getLsbD_blockOperand_pos o data ht, hbits t ht, getLsbD_streamBlock_pad o v.eight_dvd_r M L i ht,
          if_pos (mul_add_lt_of_lt_div hlt ht)]
    rw [commandEffect_absorb hc, hblock, if_pos hlt]
  · obtain rfl : Instr.final len data = x := Option.some.inj (hfinal.symm.trans hx)
    have hmod : L % v.r < v.r := Nat.mod_lt L v.r_pos
    have hblock := streamBlock_pad_last o v.eight_dvd_r v.r_pos M L (blockOperand v data) fun t ht => by
      rw [getLsbD_blockOperand_pos o data (ht.trans hmod), hbits t ht]
    rw [commandEffect_final hc (hlen ▸ hmod), hblock, if_neg (lt_irrefl _), lenOperand, hlen]

/-! ### The blocks of a hash -/

@[simp] theorem length_hashBlocks : (hashBlocks v o M L).length = v.nb := by simp [hashBlocks]

theorem getElem?_hashBlocks (hj : j < v.nb) :
    (hashBlocks v o M L)[j]? = some ((hashBlock v o M L j).setWidth 16) := by
  simp [hashBlocks, hj]

theorem permIter_succ (v : Variant) (k : Nat) (S : BitVec v.b) : permIter v (k + 1) S = perm v (permIter v k S) := by
  induction k generalizing S with
  | zero => rfl
  | succ k ih => exact ih (perm v S)

/-! ### A hash in progress -/

/-- The registers in a hash of `(M, L)` after its first `i` commands and its first `j` output transfers. -/
inductive HashProgress (v : Variant) (o : BitOrder) (M : List Byte) (L : Nat) : Nat → Nat → Regs v → Prop
  | ready {i : Nat} {g : Regs v} (hi : i ≤ L / v.r) (hc : g.ctl = .init ∨ g.ctl = .absWait)
      (hS : g.S = absorbed v o M L i) (hn : g.nout = 0#5) (he : g.err = .none) : HashProgress v o M L i 0 g
  | presenting {j : Nat} {g : Regs v} (hj : j < v.nb) (hc : g.ctl = .sqzOut)
      (hS : g.S = permIter v j (absorbed v o M L (L / v.r + 1))) (hn : g.nout.toNat = j) (he : g.err = .none) :
      HashProgress v o M L (L / v.r + 1) j g
  | finished {g : Regs v} (hc : g.ctl = .done) (he : g.err = .none) : HashProgress v o M L (L / v.r + 1) v.nb g
  /-- Before round `t` of a permutation, which was started on `g`. -/
  | permuting {i j t : Nat} {g : Regs v} (ht : t < v.rounds) (hb : g.ctl.busy = true)
      (h : HashProgress v o M L i j g.completePermutation) : HashProgress v o M L i j (g.afterRounds t)

theorem CoreState.fresh.hashProgress {c : CoreState v} (h : c.fresh) (o : BitOrder) (M : List Byte) (L : Nat) :
    HashProgress v o M L 0 0 c.regs := by
  obtain ⟨-, hc, hS, hn, he⟩ := h
  exact .ready (Nat.zero_le _) (.inl hc) hS hn he

namespace HashProgress

theorem of_permStarted (hs : g.PermStarted) (h : HashProgress v o M L i j g.completePermutation) :
    HashProgress v o M L i j g :=
  hs.afterRounds_zero ▸ .permuting v.rounds_pos hs.busy h

/-- With every command and block transferred the hash is over: no permutation leads to `DONE`, so none is running. -/
theorem done (h : HashProgress v o M L i j g) (hi : L / v.r < i) (hj : v.nb ≤ j) : g.ctl = .done ∧ g.err = .none := by
  induction h with
  | ready hle => exact absurd hi hle.not_gt
  | presenting hlt => exact absurd hj hlt.not_ge
  | finished hc he => exact ⟨hc, he⟩
  | permuting ht hb h ih =>
    obtain ⟨hc, -⟩ := ih hi hj
    obtain hb | hb | hb := Ctl.busy_iff.1 hb <;> simp [hb, Ctl.succ] at hc

/-! ### The events -/

theorem roundStep (h : HashProgress v o M L i j g) (hb : g.ctl.busy = true) : HashProgress v o M L i j g.roundStep := by
  cases h with
  | ready _ hc => obtain hc | hc := hc <;> simp [hc, Ctl.busy] at hb
  | presenting _ hc | finished hc => simp [hc, Ctl.busy] at hb
  | permuting ht hb h =>
    obtain hlt | hlast := Nat.lt_or_eq_of_le (Nat.succ_le_of_lt ht)
    · rw [Regs.roundStep_afterRounds _ hlt]
      exact .permuting hlt hb h
    · rwa [Regs.roundStep_afterRounds_last _ hlast]

theorem outputTransfer (h : HashProgress v o M L i j g) (hc : g.ctl = .sqzOut) :
    (hashBlocks v o M L)[j]? = some ((rate v g.S).setWidth 16) ∧ HashProgress v o M L i (j + 1) g.outputTransfer := by
  cases h with
  | ready _ hready => simp [hc] at hready
  | finished hdone => simp [hc] at hdone
  | permuting _ hb => exact absurd hc (Ctl.ne_sqzOut_of_busy hb)
  | presenting hj _ hS hn he =>
    refine ⟨by rw [getElem?_hashBlocks hj, hashBlock, hS]; rfl, ?_⟩
    obtain hnext | hlast : j + 1 < v.nb ∨ j + 1 = v.nb := by omega
    · obtain ⟨hs, hctl, hnout⟩ := Regs.completePermutation_outputTransfer (g := g) (hn ▸ hnext)
      exact of_permStarted hs (.presenting hnext hctl (by simp [hS, permIter_succ]) (by omega) (by simp [he]))
    · obtain ⟨-, e⟩ | ⟨hnot, -⟩ := g.outputTransfer_cases
      · rw [e, hlast]
        exact .finished rfl he
      · omega

theorem commandEffect {cmds : List Instr} (h : HashProgress v o M L i j g) (ha : g.ctl.accepts = true)
    (hcmds : IsHashCommands v o M L cmds) {x : Instr} (hx : cmds[i]? = some x) :
    HashProgress v o M L (i + 1) j (commandEffect o x g) := by
  cases h with
  | presenting _ hc => simp [hc, Ctl.accepts] at ha
  | permuting _ hb => simp [Ctl.not_accepts_of_busy hb] at ha
  | finished =>
    obtain ⟨hlen, -⟩ := hcmds
    simp [← hlen] at hx
  | ready hi hc hS hn he =>
    have hperm {y : Ctl} : (g.absorbBlock (streamBlock o v.r (pad o v.r M L) i) y).completePermutation.S =
        absorbed v o M L (i + 1) := by
      simp [absorbed, hS]
    rw [hcmds.commandEffect_eq hx hi hc]
    obtain hlt | rfl := Nat.lt_or_eq_of_le hi
    · rw [if_pos hlt]
      exact of_permStarted (g.absorbBlock_permStarted _ rfl) (.ready hlt (.inr rfl) hperm hn he)
    · have hnb : 0 < v.nb := Nat.lt_of_lt_of_le (by decide) v.ten_le_nb
      rw [if_neg (lt_irrefl _)]
      exact of_permStarted (g.absorbBlock_permStarted _ rfl) (.presenting hnb rfl hperm (by simp [hn]) he)

end HashProgress

end Sys2Proof.Machine
end

section
/-! SUPPORT. A run of a hash, edge by edge (rule R117). -/

namespace Sys2Proof.Machine

variable {v : Variant} {c : CoreState v}

/-! ### Single edges -/

/-- Without reset an edge changes nothing but the registers and what every edge consumes. -/
theorem CoreState.next_eq_withRegs (hr : c.pins.rst = false) : c.next = c.tick.withRegs c.next.regs := by
  rw [CoreState.next, hr, if_neg Bool.false_ne_true, CoreState.onTransfer]
  split_ifs <;> rfl

theorem commandsTaken_succ_of_step {s t : State} (h : step s = .next t) (k : Nat) :
    commandsTaken (k + 1) s = s.core.commandTaken.toList ++ commandsTaken k t := by
  simp [commandsTaken, h]

/-- A list that starts with the value there may be is the rest of `xs` from place `i` on, exactly when that value is at
place `i` and the list goes on as `xs` does after it. -/
theorem toList_append_eq_drop_iff {α : Type} {a : Option α} {l xs : List α} {i : Nat} :
    a.toList ++ l = xs.drop i ↔ (∀ x, a = some x → xs[i]? = some x) ∧ l = xs.drop (i + a.toList.length) := by
  cases a with
  | none => simp
  | some x =>
    constructor
    · intro h
      have hx : xs[i]? = some x := by rw [← List.head?_drop, ← h]; rfl
      have hl : l = xs.drop (i + 1) := by rw [← List.tail_drop, ← h]; rfl
      exact ⟨by simpa using hx, hl⟩
    · rintro ⟨hx, rfl⟩
      obtain ⟨hi, rfl⟩ := List.getElem?_eq_some_iff.1 (hx x rfl)
      exact (List.drop_eq_getElem_cons hi).symm

/-- One edge of a hash without reset: if a command it takes is the hash's next, then so is a block it hands out, and the
hash is that much further on. -/
theorem HashProgress.next {M : List Byte} {L i j : Nat} {cmds : List Instr} (h : HashProgress v c.order M L i j c.regs)
    (hw : c.wasReset = true) (hr : c.pins.rst = false) (hcmds : IsHashCommands v c.order M L cmds)
    (hx : ∀ x, c.commandTaken = some x → cmds[i]? = some x) :
    (∀ x, c.blockTaken = some x → (hashBlocks v c.order M L)[j]? = some x) ∧
      HashProgress v c.order M L (i + c.commandTaken.toList.length) (j + c.blockTaken.toList.length) c.next.regs := by
  obtain ⟨_, _, _, hs, ht, hd⟩ := step_cases (step_of_wasReset hw)
  cases hs
  cases ht
  obtain ⟨hrst, -⟩ | ⟨-, -, hb, e⟩ | ⟨-, -, hc, hout, e⟩ | ⟨-, -, ha, hcmd, e⟩ | ⟨-, -, -, hout, hcmd, e⟩ := hd
  · simp [hr] at hrst
  · simpa [e, CoreState.commandTaken_of_busy hw hb, CoreState.blockTaken_of_busy hw hb] using h.roundStep hb
  · have hncmd : c.commandTaken = none :=
      CoreState.commandTaken_eq_none.2
        (Bool.eq_false_iff.2 fun hcmd => CoreState.not_cmdXfer_and_outXfer hw ⟨hcmd, hout⟩)
    simpa [e, hncmd, CoreState.blockTaken_of_outXfer hw hout] using h.outputTransfer hc
  · have hnout : c.blockTaken = none :=
      CoreState.blockTaken_eq_none.2 (Bool.eq_false_iff.2 fun hout => CoreState.not_cmdXfer_and_outXfer hw ⟨hcmd, hout⟩)
    have htaken : c.commandTaken = some c.offered := CoreState.commandTaken_eq_some.2 ⟨hcmd, rfl⟩
    simpa [e, htaken, hnout] using h.commandEffect ha hcmds (hx _ htaken)
  · simpa [e, CoreState.commandTaken_eq_none.2 hcmd, CoreState.blockTaken_eq_none.2 hout] using h

/-- From any state of a hash in progress: a run that takes the commands left and as many blocks as are left hands out
those blocks and ends the hash. -/
theorem HashProgress.run_done {M : List Byte} {L i j n : Nat} {cmds : List Instr}
    (h : HashProgress v c.order M L i j c.regs) (hr : c.runs n) (hcmds : IsHashCommands v c.order M L cmds)
    (htaken : commandsTaken n ⟨v, c⟩ = cmds.drop i) (hlen : j + (blocksTaken n ⟨v, c⟩).length = v.nb) :
    blocksTaken n ⟨v, c⟩ = (hashBlocks v c.order M L).drop j ∧
      ∃ d : CoreState v, run n ⟨v, c⟩ = .next ⟨v, d⟩ ∧ d.regs.ctl = .done ∧ d.regs.err = .none := by
  induction n generalizing c i j with
  | zero =>
    have hj : v.nb ≤ j := by simpa [blocksTaken] using hlen.ge
    have hi : cmds.length ≤ i := List.drop_eq_nil_iff.1 htaken.symm
    have hcount : cmds.length = L / v.r + 1 := hcmds.1
    exact ⟨by simp [blocksTaken, hj], c, rfl, h.done (by omega) hj⟩
  | succ n ih =>
    obtain ⟨hrst, hrt⟩ := CoreState.runs_succ hr
    have hstep := step_of_wasReset hr.1
    have hnext := CoreState.next_eq_withRegs hrst
    rw [commandsTaken_succ_of_step hstep, toList_append_eq_drop_iff] at htaken
    obtain ⟨hx, hrest⟩ := htaken
    obtain ⟨hblock, hprog⟩ := h.next hr.1 hrst hcmds hx
    rw [blocksTaken_succ_of_step hstep, List.length_append] at hlen
    rw [blocksTaken_succ_of_step hstep, toList_append_eq_drop_iff, run_succ_of_step hstep]
    rw [hnext] at hrest hlen ⊢
    obtain ⟨hblocks, hd⟩ :=
      ih (c := c.tick.withRegs c.next.regs) hprog hrt hcmds hrest (by simpa [Nat.add_assoc] using hlen)
    exact ⟨⟨hblock, hblocks⟩, hd⟩

end Sys2Proof.Machine
end

section
/-! CERTIFICATE. The statements of 46_host_protocol.md. -/

namespace Sys2Proof.Machine

/-- Settles O49: the document's INIT state is a hash in progress with nothing transferred, and `HashProgress.run_done`
follows it to the end. -/
theorem hashRunYieldsTheDigest : Obligations.HashRunYieldsTheDigest := by
  intro v c M L n hr hfresh hcmds hlen
  simpa using (hfresh.hashProgress c.order M L).run_done hr hcmds (i := 0) (j := 0) rfl (by simpa using hlen)

end Sys2Proof.Machine
end

section
/-! SUPPORT. Errors as a command leaves them and as later edges keep them (rules R127 to R131), and reset edges (rules
R138 to R142). -/

namespace Sys2Proof

/-! ### The command a code names -/

theorem Instr.eq_absorb {i : Instr} (hi : i.op = 0b01#2) : i = .absorb i.len i.data := by
  simpa [hi, decodeFields] using (decodeFields_op i).symm

theorem Instr.eq_final {i : Instr} (hi : i.op = 0b10#2) : i = .final i.len i.data := by
  simpa [hi, decodeFields] using (decodeFields_op i).symm

theorem Instr.eq_rsv {i : Instr} (hi : i.op = 0b11#2) : i = .rsv i.len i.data := by
  simpa [hi, decodeFields] using (decodeFields_op i).symm

theorem Instr.eq_init {i : Instr} (hi : i.op = 0b00#2) : i = .init i.len i.data := by
  simpa [hi, decodeFields] using (decodeFields_op i).symm

namespace Machine

variable {v : Variant} {c : CoreState v}

/-! ### The error state -/

/-- Of the outcomes of a command, the ignored and the rejected one end in `ERROR`, and they write `err` and `ctl` alone
(rules R127, R128). -/
theorem Regs.CommandOutcome.eq_of_ctl_error {g g' : Regs v} (h : g.CommandOutcome g') (hc : g'.ctl = .error) :
    g' = { g with err := g'.err, ctl := .error } := by
  cases h with
  | ignored => rw [← hc]
  | rejected => rfl
  | absorbed _ _ d hx =>
    rw [Regs.absorbBlock_ctl] at hc
    simp [hc] at hx

theorem mem_commandsTaken_of_commandTaken {i : Instr} (h : c.commandTaken = some i) (k : Nat) :
    i ∈ commandsTaken (k + 1) ⟨v, c⟩ := by
  simp [commandsTaken, h]

/-- A core in `ERROR` presents no block (rule R98). -/
theorem CoreState.blockTaken_of_error (hw : c.wasReset = true) (hc : c.regs.ctl = .error) : c.blockTaken = none := by
  simp [CoreState.blockTaken, CoreState.outXfer_eq hw, hc]

/-- In `ERROR` an edge without reset and without a transferred `INIT` changes no register (rule R128). -/
theorem step_of_error (hw : c.wasReset = true) (hr : c.pins.rst = false) (hc : c.regs.ctl = .error)
    (hi : ∀ i, c.commandTaken = some i → i.op ≠ 0b00#2) : step ⟨v, c⟩ = .next ⟨v, c.tick⟩ := by
  cases hcmd : c.cmdXfer with
  | true =>
    rw [step_eq_exec_of_cmdXfer hw hcmd]
    exact exec_of_error (c := c.tick) hc (hi _ (CoreState.commandTaken_eq_some.2 ⟨hcmd, rfl⟩))
  | false =>
    have hout : c.outXfer = false := by simp [CoreState.outXfer_eq hw, hc]
    exact step_of_idle hw hr (by simp [hc, Ctl.busy]) hout hcmd

/-! ### Reset edges -/

theorem step_of_rst (hr : c.pins.rst = true) : step ⟨v, c⟩ = .next ⟨v, c.tick.resetEdge⟩ := by
  simp [step_mk, CoreState.next, hr]

/-- In the cycle after a reset edge a command is accepted (rules R96, R142). -/
theorem CoreState.cmdReady_resetEdge (hr : c.pins.rst = false) : c.resetEdge.ports.cmdReady = true :=
  congrArg Ports.cmdReady (CoreState.ports_eq_runPorts (c := c.resetEdge) rfl hr)

/-- The inputs after `m` edges are the listed ones at place `m`. -/
theorem CoreState.elapse_pins_mem_take (c : CoreState v) {m : Nat} (hm : m < c.host.length) :
    (c.elapse m).pins ∈ c.host.take (m + 1) := by
  have hpins : (c.elapse m).pins = c.host[m] := by simp [CoreState.pins, List.headD_eq_head?_getD, hm]
  exact List.mem_take_iff_getElem.2 ⟨m, by omega, hpins.symm⟩

end Machine
end Sys2Proof
end

section
/-! CERTIFICATE. The statements of 60_exceptions.md. -/

namespace Sys2Proof.Machine

/-- Settles O18, by the command's code and the state it meets. -/
theorem errorPriority : Obligations.ErrorPriority := by
  intro v c i ha
  refine ⟨_, exec_of_accepts ha i, fun hi => ?_, fun hi hc => ?_, fun hi hc => ?_, fun hi hc => ?_,
    fun hi hlen hc => ?_, fun hi hc => ?_⟩
  · rw [commandEffect_init hi]
    exact ⟨rfl, rfl⟩
  · rw [commandEffect_of_error hc hi, CoreState.withRegs_self]
  · rw [Instr.eq_rsv hi, commandEffect_rsv hc]
    exact ⟨rfl, rfl⟩
  · rw [commandEffect_of_done hc hi]
    exact ⟨rfl, rfl⟩
  · rw [Instr.eq_final hi, commandEffect_final_of_le hc hlen]
    exact ⟨rfl, rfl⟩
  · obtain hi | ⟨hi, hlen⟩ := hi
    · rw [Instr.eq_absorb hi, commandEffect_absorb hc]
      exact ⟨rfl, rfl⟩
    · rw [Instr.eq_final hi, commandEffect_final hc hlen]
      exact ⟨rfl, rfl⟩

/-- Settles O19: an `INIT` does not end in `ERROR`, and any other command that does is precise. -/
theorem errorsArePrecise : Obligations.ErrorsArePrecise := by
  intro v c d i h herror
  rw [exec_mk] at h
  obtain rfl : c.onTransfer (commandEffect c.order i) = d := by simpa using h
  obtain ⟨-, e⟩ | ⟨hna, e⟩ := c.onTransfer_cases (commandEffect c.order i) <;> rw [e] at herror ⊢
  · by_cases hi : i.op = 0b00#2
    · simp [commandEffect_init hi] at herror
    · exact congrArg c.withRegs ((commandEffect_outcome hi c.order c.regs).eq_of_ctl_error herror)
  · simp [herror, Ctl.accepts] at hna

/-- Settles O24, by the cases of a step: in `ERROR` neither a round step nor an output transfer happens, and only `INIT`
has an effect. -/
theorem onlyInitOrResetLeavesError : Obligations.OnlyInitOrResetLeavesError := by
  intro v c d hc h hleft
  obtain ⟨_, _, _, hs, ht, hd⟩ := step_cases h
  cases hs
  cases ht
  obtain ⟨hr, rfl⟩ | ⟨-, -, hb, -⟩ | ⟨-, -, hout, -⟩ | ⟨-, -, -, hcmd, rfl⟩ | ⟨-, -, -, -, -, rfl⟩ := hd
  · exact ⟨.inl hr, rfl⟩
  · simp [hc, Ctl.busy] at hb
  · simp [hc] at hout
  · by_cases hi : c.offered.op = 0b00#2
    · exact ⟨.inr ⟨_, _, CoreState.commandTaken_eq_some.2 ⟨hcmd, Instr.eq_init hi⟩⟩, commandEffect_init hi _ _⟩
    · rw [commandEffect_of_error hc hi] at hleft
      exact absurd hc hleft
  · exact absurd hc hleft

/-- Settles O25, by induction on the number of edges: each passes and leaves the core in `ERROR`. -/
theorem errorIsSticky : Obligations.ErrorIsSticky := by
  intro v c k hr hc hi
  induction k generalizing c with
  | zero => exact ⟨rfl, rfl⟩
  | succ k ih =>
    obtain ⟨hrst, hrt⟩ := CoreState.runs_succ hr
    have hstep := step_of_error hr.1 hrst hc fun i h => hi i (mem_commandsTaken_of_commandTaken h k)
    rw [commandsTaken_succ_of_step hstep] at hi
    rw [run_succ_of_step hstep, blocksTaken_succ_of_step hstep, ← CoreState.tick_elapse,
      CoreState.blockTaken_of_error hr.1 hc]
    exact ih c.tick hrt hc fun i hmem => hi i (List.mem_append_right _ hmem)

/-- Settles O17, by the state that the reserved code meets. -/
theorem reservedCodeRaisesBadCommand : Obligations.ReservedCodeRaisesBadCommand := by
  refine fun v c len data => ⟨fun hc => ?_, fun hc => exec_of_error hc (by simp [Instr.op])⟩
  have he : c.regs.ctl ≠ .error := by rintro he; simp [he] at hc
  rw [exec_of_accepts (Ctl.accepts_iff.2 (by tauto)), commandEffect_rsv he]
  rfl

end Sys2Proof.Machine
end

section
/-! SUPPORT. The commands and the lines of `HASH M, L` (rules R61, R62, R115). -/

namespace Sys2Proof.Machine

variable {v : Variant} {o : BitOrder} {M : List Byte} {L i j : Nat}

/-! ### The commands -/

@[simp] theorem length_hashCommands : (hashCommands v o M L).length = L / v.r + 1 := by
  simp [hashCommands, fullBlocks]

theorem getElem?_hashCommands_of_lt (hi : i < L / v.r) :
    (hashCommands v o M L)[i]? = some (.absorb 0#5 ((messageBlock v o M L i).setWidth 16)) := by
  simp [hashCommands, fullBlocks, hi, List.getElem?_append_left]

theorem getElem?_hashCommands_last :
    (hashCommands v o M L)[L / v.r]? =
      some (.final (BitVec.ofNat 5 (L % v.r)) ((messageBlock v o M L (L / v.r)).setWidth 16)) := by
  simp [hashCommands, fullBlocks]

theorem getLsbD_messageBlock_pos {t : Nat} (ht : t < v.r) (hL : i * v.r + t < L) :
    ((messageBlock v o M L i).setWidth 16).getLsbD (pos o t) = messageBit o M (i * v.r + t) := by
  have hpos : pos o t < 16 := (pos_lt o v.eight_dvd_r ht).trans_le v.r_le_16
  rw [BitVec.getLsbD_setWidth, decide_eq_true hpos, Bool.true_and, messageBlock,
    getLsbD_streamBlock_pos o v.eight_dvd_r _ _ ht, getD_messageBits o M hL]

/-- The bit count of a `FINAL` fits the operand (rule R50). -/
theorem finalLen_toNat (v : Variant) (L : Nat) : (BitVec.ofNat 5 (L % v.r)).toNat = L % v.r := by
  have hmod := Nat.mod_lt L v.r_pos
  have hr := v.r_le_16
  exact BitVec.toNat_ofNat (L % v.r) 5 ▸ Nat.mod_eq_of_lt (by omega)

theorem isHashCommands_hashCommands (v : Variant) (o : BitOrder) (M : List Byte) (L : Nat) :
    IsHashCommands v o M L (hashCommands v o M L) := by
  refine ⟨length_hashCommands, fun i hi => ⟨_, _, getElem?_hashCommands_of_lt hi, fun t ht => ?_⟩,
    _, _, getElem?_hashCommands_last, finalLen_toNat v L, fun t ht => ?_⟩
  · exact getLsbD_messageBlock_pos ht (mul_add_lt_of_lt_div hi ht)
  · have hdiv := Nat.div_add_mod' L v.r
    exact getLsbD_messageBlock_pos (ht.trans (Nat.mod_lt L v.r_pos)) (by omega)

/-- The command channel of the variant can carry every command of a hash, and its line offers that command. -/
theorem wf_and_command_of_mem_hashCommands {x : Instr} (hx : x ∈ hashCommands v o M L) :
    x.wf v = true ∧ (Line.ofCommand x).command = some x := by
  have hr := v.two_pow_lw
  have hmod := Nat.mod_lt L v.r_pos
  obtain ⟨i, -, rfl⟩ | rfl : (∃ i < fullBlocks v L, Instr.absorb 0#5 ((messageBlock v o M L i).setWidth 16) = x) ∨
      x = .final (BitVec.ofNat 5 (L % v.r)) ((messageBlock v o M L (fullBlocks v L)).setWidth 16) := by
    simpa [hashCommands] using hx
  · exact ⟨Instr.wf_iff.2 ⟨Nat.two_pow_pos _, toNat_setWidth_lt _ 16⟩, rfl⟩
  · refine ⟨Instr.wf_iff.2 ⟨?_, toNat_setWidth_lt _ 16⟩, rfl⟩
    rw [Instr.len, finalLen_toNat, Nat.pow_succ]
    omega

/-! ### The lines -/

/-- A line that is done at a transfer: it offers a command, or it takes a block. -/
def Line.IsTransfer (l : Line) : Prop := l = .read ∨ ∃ x, l.command = some x

theorem isTransfer_of_mem_hashLines {l : Line} (hl : l ∈ hashLines v o M L) : l.IsTransfer := by
  obtain hl | hl := List.mem_append.1 hl
  · obtain ⟨x, hx, rfl⟩ := List.mem_map.1 hl
    exact .inr ⟨x, (wf_and_command_of_mem_hashCommands hx).2⟩
  · exact .inl (List.eq_of_mem_replicate hl)

theorem drop_hashLines_command {x : Instr} (hx : (hashCommands v o M L)[i]? = some x) :
    (hashLines v o M L).drop i = Line.ofCommand x :: (hashLines v o M L).drop (i + 1) := by
  have hi : i < L / v.r + 1 := length_hashCommands ▸ (List.getElem?_eq_some_iff.1 hx).1
  have hget : (hashLines v o M L)[i]? = some (Line.ofCommand x) := by
    rw [hashLines, msgLines, List.getElem?_append_left (by simpa using hi), List.getElem?_map, hx]
    rfl
  rw [List.drop_eq_getElem?_toList_append, hget]
  rfl

theorem drop_hashLines_read (hj : j < v.nb) :
    (hashLines v o M L).drop (L / v.r + 1 + j) = .read :: (hashLines v o M L).drop (L / v.r + 1 + (j + 1)) := by
  have hget : (hashLines v o M L)[L / v.r + 1 + j]? = some .read := by
    simp [hashLines, msgLines, readAll, hj]
  rw [List.drop_eq_getElem?_toList_append, hget]
  rfl

theorem drop_hashLines_end : (hashLines v o M L).drop (L / v.r + 1 + v.nb) = [] := by
  simp [hashLines, msgLines, readAll]

end Sys2Proof.Machine
end

section
/-! SUPPORT. The edges of a host program that an eager host plays (rules R61, R150). -/

namespace Sys2Proof.Machine

variable {v : Variant} {c : CoreState v} {l : Line} {lines : List Line} {blocks : List Block}

/-! ### Plays -/

theorem play_succ_of_playEdge {q q' : Played} (h : playEdge q = .next q') (k : Nat) : play (k + 1) q = play k q' := by
  simp [play, h]

theorem play_one (q : Played) : play 1 q = playEdge q := by
  unfold play
  cases playEdge q <;> rfl

/-- The edges after the first `j` play on from what those reach. -/
theorem play_add {q q' : Played} {j : Nat} (h : play j q = .next q') (k : Nat) : play (j + k) q = play k q' := by
  induction j generalizing q with
  | zero =>
    obtain rfl : q = q' := by injection h
    rw [Nat.zero_add]
  | succ j ih =>
    cases hq : playEdge q with
    | next u =>
      rw [play_succ_of_playEdge hq] at h
      rw [Nat.succ_add, play_succ_of_playEdge hq, ih h]
    | fault f => simp [play, hq] at h
    | refused x => simp [play, hq] at h

/-- After its last line the host has no line left. -/
theorem lines_nil_of_playEdge {q q' : Played} (h : playEdge q = .next q') (hq : q.lines = []) : q'.lines = [] := by
  unfold playEdge at h
  simp only [hq, drive] at h
  split at h
  · obtain rfl := Host.Outcome.next.inj h
    rfl
  all_goals cases h

/-- If lines are left after `n` edges, lines were left after any fewer. -/
theorem play_lines_ne_nil {n : Nat} {q q' : Played} (h : play n q = .next q') (hq' : q'.lines ≠ []) :
    ∀ k ≤ n, ∃ p, play k q = .next p ∧ p.lines ≠ [] := by
  induction n generalizing q with
  | zero =>
    intro k hk
    obtain rfl : k = 0 := Nat.le_zero.1 hk
    exact ⟨q', h, hq'⟩
  | succ n ih =>
    cases hq : playEdge q with
    | next u =>
      rw [play_succ_of_playEdge hq] at h
      have hu := ih h
      intro k hk
      cases k with
      | zero =>
        obtain ⟨_, hplay, hne⟩ := hu 0 n.zero_le
        obtain rfl := Host.Outcome.next.inj hplay
        exact ⟨q, rfl, fun hnil => hne (lines_nil_of_playEdge hq hnil)⟩
      | succ k =>
        rw [play_succ_of_playEdge hq]
        exact hu k (Nat.le_of_succ_le_succ hk)
    | fault f => simp [play, hq] at h
    | refused x => simp [play, hq] at h

/-! ### Single edges -/

/-- The core with the inputs that the host drives at the coming edge, and no others. -/
def CoreState.driven (c : CoreState v) (p : Pins v) : CoreState v := { c with host := [p] }

/-- The core after `k` edges of a play that leave the registers `g`. -/
def CoreState.played (c : CoreState v) (k : Nat) (g : Regs v) : CoreState v :=
  { c with regs := g, host := [], cycle := c.cycle + k }

theorem playEdge_of_step {t : State} (h : step ⟨v, c.driven (drive c lines).1⟩ = .next t) :
    playEdge ⟨lines, ⟨v, c⟩, blocks⟩ =
      .next ⟨(drive c lines).2, t, blocks ++ (c.driven (drive c lines).1).blockTaken.toList⟩ := by
  unfold CoreState.driven at h
  simp [playEdge, CoreState.driven, h]

/-- A command line offers its command until the core accepts it. -/
theorem drive_command {x : Instr} (hx : l.command = some x) (rest : List Line) :
    drive c (l :: rest) = (Pins.offer v x, if (c.portsAt false).cmdReady then rest else l :: rest) := by
  cases l with
  | init | absorb d | final k d | rsv k d =>
    obtain rfl := Option.some.inj hx
    rfl
  | read | idle m | reset m => cases hx

/-- While a permutation runs the host waits at its line. -/
theorem drive_of_busy (hw : c.wasReset = true) (hb : c.regs.ctl.busy = true) (hl : ∀ l ∈ lines, l.IsTransfer) :
    (drive c lines).1.rst = false ∧ (drive c lines).2 = lines := by
  cases lines with
  | nil => exact ⟨rfl, rfl⟩
  | cons l rest =>
    obtain rfl | ⟨x, hx⟩ := hl l List.mem_cons_self
    · simp [drive, Pins.idle, CoreState.portsAt, hw, runPorts, Ctl.ne_sqzOut_of_busy hb]
    · rw [drive_command hx]
      simp [Pins.offer, Pins.offerWord, Pins.idle, CoreState.portsAt, hw, runPorts, Ctl.not_accepts_of_busy hb]

/-- While a permutation runs, an edge of a play is its round step. -/
theorem playEdge_of_busy (hw : c.wasReset = true) (hb : c.regs.ctl.busy = true) (hl : ∀ l ∈ lines, l.IsTransfer) :
    playEdge ⟨lines, ⟨v, c⟩, blocks⟩ = .next ⟨lines, ⟨v, c.played 1 c.regs.roundStep⟩, blocks⟩ := by
  obtain ⟨hr, hlines⟩ := drive_of_busy hw hb hl
  rw [playEdge_of_step (step_of_busy (c := c.driven _) hw hr hb), hlines,
    CoreState.blockTaken_of_busy (c := c.driven _) hw hb, Option.toList_none, List.append_nil]
  rfl

/-- A command line at a core that accepts commands is done at the edge. -/
theorem playEdge_command {x : Instr} (hw : c.wasReset = true) (ha : c.regs.ctl.accepts = true) (hwf : x.wf v = true)
    (hx : l.command = some x) (rest : List Line) :
    playEdge ⟨l :: rest, ⟨v, c⟩, blocks⟩ =
      .next ⟨rest, ⟨v, c.played 1 (commandEffect c.order x c.regs)⟩, blocks⟩ := by
  have hdrive : drive c (l :: rest) = (Pins.offer v x, rest) := by
    rw [drive_command hx]
    simp [CoreState.portsAt, hw, runPorts, ha]
  have hcmd : (c.driven (Pins.offer v x)).cmdXfer = true :=
    (CoreState.cmdXfer_iff (c := c.driven _) hw).2 ⟨rfl, rfl, ha⟩
  have hnout : (c.driven (Pins.offer v x)).blockTaken = none :=
    CoreState.blockTaken_eq_none.2
      (Bool.eq_false_iff.2 fun hout => CoreState.not_cmdXfer_and_outXfer (c := c.driven _) hw ⟨hcmd, hout⟩)
  have hoffered : (c.driven (Pins.offer v x)).offered = x :=
    (congrArg (decode v) (Pins.commandWord_offerWord _)).trans (decode_encode hwf)
  have hstep := step_of_cmdXfer (c := c.driven (Pins.offer v x)) hw hcmd
  rw [hoffered] at hstep
  rw [playEdge_of_step (by rw [hdrive]; exact hstep), hdrive, hnout, Option.toList_none, List.append_nil]
  rfl

/-- A `READ` at a presented block is done at the edge. -/
theorem playEdge_read (hw : c.wasReset = true) (hc : c.regs.ctl = .sqzOut) (rest : List Line) :
    playEdge ⟨.read :: rest, ⟨v, c⟩, blocks⟩ =
      .next ⟨rest, ⟨v, c.played 1 c.regs.outputTransfer⟩, blocks ++ [(rate v c.regs.S).setWidth 16]⟩ := by
  have hdrive : drive c (.read :: rest) = ({ Pins.idle v with outReady := true }, rest) := by
    simp [drive, CoreState.portsAt, hw, runPorts, hc]
  have hout : (c.driven { Pins.idle v with outReady := true }).outXfer = true :=
    (CoreState.outXfer_iff (c := c.driven _) hw).2 ⟨rfl, hc, rfl⟩
  have hstep := step_of_outXfer (c := c.driven { Pins.idle v with outReady := true }) hw hout
  rw [playEdge_of_step (by rw [hdrive]; exact hstep), hdrive, CoreState.blockTaken_of_outXfer (c := c.driven _) hw hout]
  rfl

/-! ### A transfer and the permutation it starts -/

section Permutation

variable {g : Regs v} (hw : c.wasReset = true) (hs : g.PermStarted) (hl : ∀ l ∈ lines, l.IsTransfer)
include hw hs hl

/-- One more edge of a permutation that is before round `t`. -/
theorem playEdge_afterRounds (e t : Nat) :
    playEdge ⟨lines, ⟨v, c.played e (g.afterRounds t)⟩, blocks⟩ =
      .next ⟨lines, ⟨v, c.played (e + 1) (g.afterRounds t).roundStep⟩, blocks⟩ :=
  playEdge_of_busy (c := c.played e (g.afterRounds t)) hw hs.busy hl

/-- A permutation just started is before its round `t` after `t` edges of a play (rule R85). -/
theorem play_afterRounds (e : Nat) {t : Nat} (ht : t < v.rounds) :
    play t ⟨lines, ⟨v, c.played e g⟩, blocks⟩ = .next ⟨lines, ⟨v, c.played (e + t) (g.afterRounds t)⟩, blocks⟩ := by
  induction t with
  | zero => rw [hs.afterRounds_zero]; rfl
  | succ t ih =>
    rw [play_add (ih (Nat.lt_of_succ_lt ht)), play_one, playEdge_afterRounds hw hs hl, Regs.roundStep_afterRounds g ht,
      Nat.add_assoc]

/-- An edge that starts a permutation, and the permutation to its end, take `R + 1` edges (rule R149). -/
theorem play_completePermutation {q : Played} (hedge : playEdge q = .next ⟨lines, ⟨v, c.played 1 g⟩, blocks⟩) :
    play (v.rounds + 1) q = .next ⟨lines, ⟨v, c.played (v.rounds + 1) g.completePermutation⟩, blocks⟩ := by
  obtain ⟨t, ht⟩ : ∃ t, v.rounds = t + 1 := Nat.exists_eq_add_one.2 v.rounds_pos
  rw [play_succ_of_playEdge hedge, ht, play_add (play_afterRounds hw hs hl 1 (by omega)), play_one,
    playEdge_afterRounds hw hs hl, Regs.roundStep_afterRounds_last g ht.symm, Nat.add_comm 1 t]

end Permutation

end Sys2Proof.Machine
end

section
/-! SUPPORT. The eager host's hash, one line with its permutation after the other (rules R149, R150). -/

namespace Sys2Proof.Machine

variable {v : Variant} {o : BitOrder} {M : List Byte} {L i j : Nat}

/-- A permutation just started leads to its end with the same commands and blocks transferred. -/
theorem HashProgress.completePermutation {g : Regs v} (h : HashProgress v o M L i j g) (hs : g.PermStarted) :
    HashProgress v o M L i j g.completePermutation := by
  obtain ⟨hb, hrnd, -⟩ := hs
  cases h with
  | ready _ hc => obtain hc | hc := hc <;> simp [hc, Ctl.busy] at hb
  | presenting _ hc | finished hc => simp [hc, Ctl.busy] at hb
  | @permuting _ _ t g ht _ h =>
    have hzero : t = 0 := by simpa [hrnd] using (g.afterRounds_rnd_toNat ht).symm
    subst hzero
    exact h

/-- A core past its first reset edge in a hash of `(M, L)`, with no permutation running. -/
structure CoreState.HashAt (c : CoreState v) (M : List Byte) (L i j : Nat) : Prop where
  wasReset : c.wasReset = true
  progress : HashProgress v c.order M L i j c.regs
  idle : c.regs.ctl.busy = false

/-- The eager host's play after the first `i` commands and the first `j` output transfers of a hash, with core `c`. -/
def CoreState.hashPlay (c : CoreState v) (M : List Byte) (L i j : Nat) : Played :=
  ⟨(hashLines v c.order M L).drop (i + j), ⟨v, c⟩, (hashBlocks v c.order M L).take j⟩

namespace CoreState.HashAt

variable {c : CoreState v}

/-- Between permutations, a hash with lines left is ready for its next command or presents its next block. -/
theorem ready_or_presenting (h : c.HashAt M L i j) (hleft : i + j ≤ L / v.r + v.nb) :
    (i ≤ L / v.r ∧ j = 0 ∧ (c.regs.ctl = .init ∨ c.regs.ctl = .absWait)) ∨
    (i = L / v.r + 1 ∧ j < v.nb ∧ c.regs.ctl = .sqzOut ∧ c.regs.nout.toNat = j) := by
  obtain ⟨-, hprog, hidle⟩ := h
  generalize c.regs = g at hprog hidle ⊢
  cases hprog with
  | ready hi hc => exact .inl ⟨hi, rfl, hc⟩
  | presenting hj hc _ hn => exact .inr ⟨rfl, hj, hc, hn⟩
  | finished => omega
  | permuting _ hb => simp [hb] at hidle

/-- The next line of the hash, if it is a command. -/
theorem playEdge_command (h : c.HashAt M L i 0) (hi : i ≤ L / v.r) (hc : c.regs.ctl = .init ∨ c.regs.ctl = .absWait) :
    ∃ g, HashProgress v c.order M L (i + 1) 0 g ∧ g.PermStarted ∧
      playEdge (c.hashPlay M L i 0) = .next ((c.played 1 g).hashPlay M L (i + 1) 0) := by
  have hcmds := isHashCommands_hashCommands v c.order M L
  have ha : c.regs.ctl.accepts = true := Ctl.accepts_iff.2 (by tauto)
  obtain ⟨x, hx⟩ : ∃ x, (hashCommands v c.order M L)[i]? = some x :=
    ⟨_, List.getElem?_eq_getElem (by simpa using Nat.lt_succ_of_le hi)⟩
  obtain ⟨hwf, hline⟩ := wf_and_command_of_mem_hashCommands (List.mem_of_getElem? hx)
  refine ⟨commandEffect c.order x c.regs, h.progress.commandEffect ha hcmds hx, ?_, ?_⟩
  · rw [hcmds.commandEffect_eq hx hi hc]
    exact c.regs.absorbBlock_permStarted _ (by split_ifs <;> rfl)
  · have hdrop : (hashLines v c.order M L).drop (i + 0) = _ := drop_hashLines_command hx
    rw [CoreState.hashPlay, hdrop]
    exact Machine.playEdge_command h.wasReset ha hwf hline _

/-- The next line of the hash, if it is a `READ`. -/
theorem playEdge_read (h : c.HashAt M L (L / v.r + 1) j) (hj : j < v.nb) (hc : c.regs.ctl = .sqzOut) :
    playEdge (c.hashPlay M L (L / v.r + 1) j) =
      .next ((c.played 1 c.regs.outputTransfer).hashPlay M L (L / v.r + 1) (j + 1)) := by
  obtain ⟨hblock, -⟩ := h.progress.outputTransfer hc
  have htake : (hashBlocks v c.order M L).take (j + 1) =
      (hashBlocks v c.order M L).take j ++ [(rate v c.regs.S).setWidth 16] := by
    rw [List.take_add_one, hblock]
    rfl
  rw [CoreState.hashPlay, drop_hashLines_read hj, Machine.playEdge_read h.wasReset hc, ← htake]
  rfl

/-- A line of the hash before the last one starts a permutation, and takes `R + 1` edges with it (rule R149). -/
theorem play_line (h : c.HashAt M L i j) (hleft : i + j < L / v.r + v.nb) :
    ∃ i' j' g, i' + j' = i + j + 1 ∧ (c.played (v.rounds + 1) g).HashAt M L i' j' ∧
      play (v.rounds + 1) (c.hashPlay M L i j) = .next ((c.played (v.rounds + 1) g).hashPlay M L i' j') := by
  obtain ⟨i', j', g, hsum, hprog, hs, hedge⟩ : ∃ i' j' g, i' + j' = i + j + 1 ∧ HashProgress v c.order M L i' j' g ∧
      g.PermStarted ∧ playEdge (c.hashPlay M L i j) = .next ((c.played 1 g).hashPlay M L i' j') := by
    obtain ⟨hi, rfl, hc⟩ | ⟨rfl, hj, hc, hn⟩ := h.ready_or_presenting hleft.le
    · obtain ⟨g, hg⟩ := h.playEdge_command hi hc
      exact ⟨i + 1, 0, g, rfl, hg⟩
    · obtain ⟨hs, -, -⟩ := Regs.completePermutation_outputTransfer (g := c.regs) (by omega)
      exact ⟨_, j + 1, _, rfl, (h.progress.outputTransfer hc).2, hs, h.playEdge_read hj hc⟩
  exact ⟨i', j', g.completePermutation, hsum,
    ⟨h.wasReset, hprog.completePermutation hs, (Ctl.succ_of_busy hs.busy).1⟩,
    play_completePermutation h.wasReset hs (fun l hl => isTransfer_of_mem_hashLines (List.mem_of_mem_drop hl)) hedge⟩

/-- With `m` lines before the last one left, the last `READ` is at the coming edge after `m` times `R + 1` edges. -/
theorem play_to_last_line {m : Nat} (h : c.HashAt M L i j) (hm : i + j + m = L / v.r + v.nb) :
    ∃ d : CoreState v, play (m * (v.rounds + 1)) (c.hashPlay M L i j) = .next (d.hashPlay M L (L / v.r + 1) (v.nb - 1)) ∧
      d.HashAt M L (L / v.r + 1) (v.nb - 1) ∧ d.regs.ctl = .sqzOut ∧ d.order = c.order ∧
      d.cycle = c.cycle + m * (v.rounds + 1) := by
  have hnb := v.ten_le_nb
  induction m generalizing c i j with
  | zero =>
    obtain ⟨hi, rfl, -⟩ | ⟨rfl, hj, hc, -⟩ := h.ready_or_presenting hm.le
    · omega
    · obtain rfl : j = v.nb - 1 := by omega
      exact ⟨c, by simp [play], h, hc, rfl, by simp⟩
  | succ m ih =>
    obtain ⟨i', j', g, hsum, hat, hline⟩ := h.play_line (by omega)
    obtain ⟨d, hplay, hd, hc, horder, hcycle⟩ := ih hat (by omega)
    have hedges : (m + 1) * (v.rounds + 1) = v.rounds + 1 + m * (v.rounds + 1) := by rw [Nat.succ_mul, Nat.add_comm]
    rw [hedges, play_add hline]
    exact ⟨d, hplay, hd, hc, horder, by rw [hcycle, CoreState.played, Nat.add_assoc]⟩

end CoreState.HashAt

theorem CoreState.fresh.hashAt {c : CoreState v} (h : c.fresh) (M : List Byte) (L : Nat) : c.HashAt M L 0 0 := by
  have hprog := h.hashProgress c.order M L
  obtain ⟨hw, hc, -⟩ := h
  exact ⟨hw, hprog, by simp [hc, Ctl.busy]⟩

/-- The eager host's play of a whole hash has no line and no block left to come after the last `READ`. -/
theorem CoreState.hashPlay_end (c : CoreState v) (M : List Byte) (L : Nat) :
    c.hashPlay M L (L / v.r + 1) v.nb = ⟨[], ⟨v, c⟩, hashBlocks v c.order M L⟩ := by
  rw [CoreState.hashPlay, drop_hashLines_end, List.take_of_length_le length_hashBlocks.le]

end Sys2Proof.Machine
end

section
/-! CERTIFICATE. The statements of 70_reset_and_hazards.md. -/

namespace Sys2Proof.Machine

/-- Settles O9, by induction on the number of edges: a reset core is reset again. -/
theorem holdingResetIsOneReset : Obligations.HoldingResetIsOneReset := by
  intro v c m hm hlen hrst
  induction m, hm using Nat.le_induction with
  | base =>
    have hr : c.pins.rst = true := hrst _ (c.elapse_pins_mem_take hlen)
    rw [run_one, step_of_rst hr, CoreState.elapse_one]
    rfl
  | succ m hm ih =>
    have hr := hrst _ (c.elapse_pins_mem_take hlen)
    have hrun := ih (Nat.le_of_succ_le hlen) fun p hp => hrst p (List.take_subset_take_left _ m.le_succ hp)
    rw [run_add hrun, run_one, ← CoreState.elapse_tick]
    exact step_of_rst (c := (c.elapse m).resetEdge) hr

/-- Settles O50: each line before the last `READ` takes `R + 1` edges, and that one takes one more and ends the hash. -/
theorem eagerHashTakesTheStatedEdges : Obligations.EagerHashTakesTheStatedEdges := by
  intro v c M L hfresh edges start
  have hnb : v.nb - 1 + 1 = v.nb := Nat.sub_add_cancel (le_trans (by decide) v.ten_le_nb)
  obtain ⟨d, hplay, hat, hc, horder, hcycle⟩ := (hfresh.hashAt M L).play_to_last_line (m := L / v.r + v.nb) (by omega)
  have hlast := hat.playEdge_read (by omega) hc
  obtain ⟨-, hprog⟩ := hat.progress.outputTransfer hc
  obtain ⟨hdone, hnone⟩ := hprog.done (by omega) hnb.ge
  rw [hnb, CoreState.hashPlay_end] at hlast
  refine ⟨⟨d.played 1 d.regs.outputTransfer, ?_, hdone, hnone, ?_⟩, fun k hk => ?_⟩
  · rw [← horder]
    exact (play_add hplay 1).trans ((play_one _).trans hlast)
  · rw [CoreState.played, hcycle, Nat.add_assoc]
  · refine play_lines_ne_nil hplay ?_ k (Nat.le_of_lt_succ hk)
    rw [CoreState.hashPlay, drop_hashLines_read (by omega)]
    exact List.cons_ne_nil _ _

/-- Settles O8: `rst = 1` shuts both channels, and the edge is the reset edge. -/
theorem resetEdgeDominates : Obligations.ResetEdgeDominates := by
  intro v c hr
  refine ⟨?_, ?_, step_of_rst hr⟩
  · simp [CoreState.commandTaken_eq_none, CoreState.cmdXfer, hr]
  · simp [CoreState.blockTaken_eq_none, CoreState.outXfer, hr]

/-- Settles O11: the core after the reset edge holds nothing of the registers before it. -/
theorem oneResetEdgeBoots : Obligations.OneResetEdgeBoots := by
  intro v o p q ps hp hq
  exact ⟨(CoreState.powerUp o (Regs.reset v) (p :: q :: ps)).tick.resetEdge, rfl, rfl,
    CoreState.cmdReady_resetEdge hq, fun g => step_of_rst hp⟩

/-- Settles O51: the ports of a cycle with `rst = 1` do not look at the registers. -/
theorem portsDuringReset : Obligations.PortsDuringReset := by
  intro v c hr
  have hports : c.ports = resetPorts c.freeData := by rw [CoreState.ports, hr]; rfl
  rw [hports]
  exact ⟨rfl, rfl, rfl, rfl, rfl, rfl⟩

/-- Settles O53: `portsAt` takes `rst` and no other input. -/
theorem outputsDependOnRstAlone : Obligations.OutputsDependOnRstAlone := by
  intro v c p q hrst
  change c.portsAt p.rst = c.portsAt q.rst
  rw [hrst]

end Sys2Proof.Machine
end
